-- ==== Sys2Proof/Word.lean ====
section
/-! DEFINITION. The word types of AES128-CORE: bytes, bus and micro-op words, the 4-byte word of R12, the block of R11 and
the round-key schedule of R21. -/

namespace Sys2Proof

/-- A byte, bits 7 to 0 (R10). -/
abbrev Byte := BitVec 8

/-- A bus register address, 5 bits (R9, R52). -/
abbrev BusAddr := BitVec 5

/-- A bus-transaction word: sel, we, addr and wdata from the top down (R71). -/
abbrev BusWord := BitVec 15

/-- A micro-op word: opc and arg from the top down (R73). -/
abbrev UopWord := BitVec 8

/-- A word of the key schedule: 4 bytes indexed 0..3 (R12). -/
abbrev KeyWord := Vector Byte 4

/-- A block: 16 bytes indexed 0..15 (R11). It is never packed into one integer. -/
abbrev Block := Vector Byte 16

/-- The round-key schedule store: 11 round keys (R21). -/
abbrev Schedule := Vector Block 11

/-- The block of 16 zero bytes. -/
abbrev Block.zero : Block := Vector.replicate 16 0

/-- Bytewise XOR of two words (R12). -/
def KeyWord.xor (a b : KeyWord) : KeyWord := Vector.ofFn fun i => a[i] ^^^ b[i]

/-- Bytewise XOR of two blocks (R12). -/
def Block.xor (a b : Block) : Block := Vector.ofFn fun i => a[i] ^^^ b[i]

end Sys2Proof
end

