-- ==== Sys2Proof/Config.lean ====
section
/-! DEFINITION. The parameters fixed for the life of the part (R8, R9). The ROM contents of R29 are configuration too; they
stand in Machine/Rom.lean. No value of this hardware is left free. -/

namespace Sys2Proof.Config

/-- Bytes of a block and of a key (R8). -/
abbrev blockBytes : Nat := 16

/-- The rounds of AES-128 (R8). -/
abbrev rounds : Nat := 10

/-- Words of the whole key schedule (R8). -/
abbrev scheduleWords : Nat := 44

/-- The value at which KEY_CNT and DIN_CNT saturate: more than 16 bytes were supplied (R23). -/
abbrev countLimit : Nat := 17

/-- Words of each micro-program (R9). -/
abbrev progWords : Nat := 51

/-- Edges an accepted call spends in RUN (R9, R168). -/
abbrev callEdges : Nat := 51

end Sys2Proof.Config
end

