-- ==== Sys2Proof/Syntax.lean ====
section
/-! DEFINITION. The instructions: one constructor per row of spec/opcode_table.json, 21 bus operations (R76) and 9 micro-ops
(R77). The bits a row leaves free are operands, the ignored ones too, so that a bus word and its instruction
determine each other (log 11). -/

namespace Sys2Proof

/-- One operation of the core. -/
inductive Instr where
  /-- BUS_IDLE: `sel = 0`; `ignored` is bits 13:0 (R184). -/
  | busIdle (ignored : BitVec 14)
  /-- WR_KEY_DATA: push the key byte `d` (R185). -/
  | wrKeyData (d : Byte)
  /-- WR_DIN_DATA: push the block byte `d` (R186). -/
  | wrDinData (d : Byte)
  /-- WR_CTRL_NOP: a CTRL write with START = 0; `ignored` is wdata[7:1] (R187). -/
  | wrCtrlNop (ignored : BitVec 7)
  /-- START_ENC: START with MODE 00; `reserved` is wdata[7:3] (R188). -/
  | startEnc (reserved : BitVec 5)
  /-- START_DEC: START with MODE 01; `reserved` is wdata[7:3] (R189). -/
  | startDec (reserved : BitVec 5)
  /-- START_BADMODE: START with MODE 1x, x being `mode0`; `reserved` is wdata[7:3] (R190). -/
  | startBadmode (reserved : BitVec 5) (mode0 : BitVec 1)
  /-- WR_STATUS (R192). -/
  | wrStatus (ignored : Byte)
  /-- WR_COUNT: address 0x02 + `addr0` (R193). -/
  | wrCount (addr0 : BitVec 1) (ignored : Byte)
  /-- WR_DOUT: address 0x10 + `i` (R194). -/
  | wrDout (i : BitVec 4) (ignored : Byte)
  /-- WR_RSVD_06: address 0x06 + `addr0` (R195). -/
  | wrRsvd06 (addr0 : BitVec 1) (ignored : Byte)
  /-- WR_RSVD_08: address 0x08 + `addr` (R195). -/
  | wrRsvd08 (addr : BitVec 3) (ignored : Byte)
  /-- RD_CTRL (R196). -/
  | rdCtrl (ignored : Byte)
  /-- RD_STATUS (R197). -/
  | rdStatus (ignored : Byte)
  /-- RD_KEY_COUNT (R198). -/
  | rdKeyCount (ignored : Byte)
  /-- RD_DIN_COUNT (R199). -/
  | rdDinCount (ignored : Byte)
  /-- RD_KEY_DATA (R196). -/
  | rdKeyData (ignored : Byte)
  /-- RD_DIN_DATA (R196). -/
  | rdDinData (ignored : Byte)
  /-- RD_RSVD_06: address 0x06 + `addr0` (R201). -/
  | rdRsvd06 (addr0 : BitVec 1) (ignored : Byte)
  /-- RD_RSVD_08: address 0x08 + `addr` (R201). -/
  | rdRsvd08 (addr : BitVec 3) (ignored : Byte)
  /-- RD_DOUT: address 0x10 + `i` (R200). -/
  | rdDout (i : BitVec 4) (ignored : Byte)
  /-- KEYEXP k, legal for k in 1..10 (R132, R79). -/
  | keyexp (k : BitVec 4)
  /-- ARK r, legal for r in 0..10 (R147, R79). -/
  | ark (r : BitVec 4)
  /-- SB, SubBytes (R141). -/
  | sb
  /-- ISB, InvSubBytes (R142). -/
  | isb
  /-- SR, ShiftRows (R143). -/
  | sr
  /-- ISR, InvShiftRows (R144). -/
  | isr
  /-- MC, MixColumns (R145). -/
  | mc
  /-- IMC, InvMixColumns (R146). -/
  | imc
  /-- OUT, completion (R164). -/
  | out
  deriving DecidableEq, Repr

/-- The two formats of R70. -/
inductive Format where
  | bus
  | uop
  deriving DecidableEq, Repr

/-- The format an instruction's word has (R76, R77). -/
def Instr.format : Instr → Format
  | .busIdle _ | .wrKeyData _ | .wrDinData _ | .wrCtrlNop _ | .startEnc _ | .startDec _ | .startBadmode _ _ => .bus
  | .wrStatus _ | .wrCount _ _ | .wrDout _ _ | .wrRsvd06 _ _ | .wrRsvd08 _ _ => .bus
  | .rdCtrl _ | .rdStatus _ | .rdKeyCount _ | .rdDinCount _ | .rdKeyData _ | .rdDinData _ => .bus
  | .rdRsvd06 _ _ | .rdRsvd08 _ _ | .rdDout _ _ => .bus
  | .keyexp _ | .ark _ | .sb | .isb | .sr | .isr | .mc | .imc | .out => .uop

end Sys2Proof
end

