-- ==== Sys2Proof/WellFormed.lean ====
section
/-! DEFINITION. Which instructions are well formed. Every bus operation is (no BUS word is illegal, R78); of the micro-ops,
KEYEXP needs a round in 1..10 and ARK a round in 0..10 (R75, R79). The other operands are checked by their widths. -/

namespace Sys2Proof

/-- The operand of an instruction is one its encoding allows (R75, R79). -/
def Instr.wf : Instr → Bool
  | .keyexp k => decide (1 ≤ k.toNat ∧ k.toNat ≤ Config.rounds)
  | .ark r => decide (r.toNat ≤ Config.rounds)
  | .busIdle _ | .wrKeyData _ | .wrDinData _ | .wrCtrlNop _ | .startEnc _ | .startDec _ | .startBadmode _ _ => true
  | .wrStatus _ | .wrCount _ _ | .wrDout _ _ | .wrRsvd06 _ _ | .wrRsvd08 _ _ => true
  | .rdCtrl _ | .rdStatus _ | .rdKeyCount _ | .rdDinCount _ | .rdKeyData _ | .rdDinData _ => true
  | .rdRsvd06 _ _ | .rdRsvd08 _ _ | .rdDout _ _ => true
  | .sb | .isb | .sr | .isr | .mc | .imc | .out => true

end Sys2Proof
end

