-- ==== Sys2Proof/Decode.lean ====
section
/-! DEFINITION. Decoding and encoding of the two word formats (30_encoding.md). Every bus word decodes (R78); a reserved
micro-op word (R79) is rejected by name. -/

namespace Sys2Proof

/-- A word the core decodes, in one of its two formats (R70). -/
inductive CodeWord where
  | bus (w : BusWord)
  | uop (w : UopWord)
  deriving DecidableEq, Repr

/-- Why a micro-op word is reserved: the four cases of R79. -/
inductive DecodeReject where
  /-- `opc` is 0x0 or 0xA..0xF. -/
  | reservedOpcode (w : UopWord)
  /-- KEYEXP with `arg` 0 or 11..15. -/
  | keyexpRound (arg : BitVec 4)
  /-- ARK with `arg` 11..15. -/
  | arkRound (arg : BitVec 4)
  /-- A code 0x3..0x9 with `arg` not 0. -/
  | nonzeroArg (w : UopWord)
  deriving DecidableEq, Repr

/-! ### Fields -/

/-- `sel`, bit 14 (R71). -/
def busSel (w : BusWord) : Bool := w.getLsbD 14

/-- `we`, bit 13 (R71). -/
def busWe (w : BusWord) : Bool := w.getLsbD 13

/-- `addr`, bits 12:8 (R71). -/
def busAddr (w : BusWord) : BusAddr := w.extractLsb' 8 5

/-- `wdata`, bits 7:0 (R71). -/
def busWdata (w : BusWord) : Byte := w.extractLsb' 0 8

/-- The bus word of the given pin values (R71). -/
def mkBusWord (sel we : Bool) (addr : BusAddr) (wdata : Byte) : BusWord :=
  BitVec.ofBool sel ++ BitVec.ofBool we ++ addr ++ wdata

/-- START, bit 0 of the CTRL data byte (R72). -/
def ctrlStart (d : Byte) : Bool := d.getLsbD 0

/-- MODE, bits 2:1 of the CTRL data byte (R72). -/
def ctrlMode (d : Byte) : BitVec 2 := d.extractLsb' 1 2

/-- `opc`, bits 7:4 (R73). -/
def uopOpc (w : UopWord) : BitVec 4 := w.extractLsb' 4 4

/-- `arg`, bits 3:0 (R73). -/
def uopArg (w : UopWord) : BitVec 4 := w.extractLsb' 0 4

/-! ### Decoding -/

/-- A CTRL write, decoded by bits 2:0 alone (R72, R78). -/
def decodeCtrl (d : Byte) : Instr :=
  if ctrlStart d = false then .wrCtrlNop (d.extractLsb' 1 7)
  else if d.getLsbD 2 then .startBadmode (d.extractLsb' 3 5) (d.extractLsb' 1 1)
  else if d.getLsbD 1 then .startDec (d.extractLsb' 3 5)
  else .startEnc (d.extractLsb' 3 5)

/-- A bus write, by its address (R76). -/
def decodeWrite (a : BusAddr) (d : Byte) : Instr :=
  if a = 0x00 then decodeCtrl d
  else if a = 0x01 then .wrStatus d
  else if a = 0x02 ∨ a = 0x03 then .wrCount (a.extractLsb' 0 1) d
  else if a = 0x04 then .wrKeyData d
  else if a = 0x05 then .wrDinData d
  else if a = 0x06 ∨ a = 0x07 then .wrRsvd06 (a.extractLsb' 0 1) d
  else if a < 0x10 then .wrRsvd08 (a.extractLsb' 0 3) d
  else .wrDout (a.extractLsb' 0 4) d

/-- A bus read, by its address (R76). -/
def decodeRead (a : BusAddr) (d : Byte) : Instr :=
  if a = 0x00 then .rdCtrl d
  else if a = 0x01 then .rdStatus d
  else if a = 0x02 then .rdKeyCount d
  else if a = 0x03 then .rdDinCount d
  else if a = 0x04 then .rdKeyData d
  else if a = 0x05 then .rdDinData d
  else if a = 0x06 ∨ a = 0x07 then .rdRsvd06 (a.extractLsb' 0 1) d
  else if a < 0x10 then .rdRsvd08 (a.extractLsb' 0 3) d
  else .rdDout (a.extractLsb' 0 4) d

/-- The bus operation of a bus word (R76). -/
def decodeBus (w : BusWord) : Instr :=
  if busSel w = false then .busIdle (w.extractLsb' 0 14)
  else if busWe w then decodeWrite (busAddr w) (busWdata w)
  else decodeRead (busAddr w) (busWdata w)

/-- A micro-op without operand, whose `arg` must be 0 (R73). -/
def uopNoArg (w : UopWord) (i : Instr) : Except DecodeReject Instr :=
  if uopArg w = 0 then .ok i else .error (.nonzeroArg w)

/-- The micro-op of a UOP word, or why the word is reserved (R77, R79). -/
def decodeUop (w : UopWord) : Except DecodeReject Instr :=
  if uopOpc w = 0x1 then
    if 1 ≤ (uopArg w).toNat ∧ (uopArg w).toNat ≤ Config.rounds then .ok (.keyexp (uopArg w))
    else .error (.keyexpRound (uopArg w))
  else if uopOpc w = 0x2 then
    if (uopArg w).toNat ≤ Config.rounds then .ok (.ark (uopArg w)) else .error (.arkRound (uopArg w))
  else if uopOpc w = 0x3 then uopNoArg w .sb
  else if uopOpc w = 0x4 then uopNoArg w .isb
  else if uopOpc w = 0x5 then uopNoArg w .sr
  else if uopOpc w = 0x6 then uopNoArg w .isr
  else if uopOpc w = 0x7 then uopNoArg w .mc
  else if uopOpc w = 0x8 then uopNoArg w .imc
  else if uopOpc w = 0x9 then uopNoArg w .out
  else .error (.reservedOpcode w)

/-- Decoding of a word in either format (R70). -/
def decode : CodeWord → Except DecodeReject Instr
  | .bus w => .ok (decodeBus w)
  | .uop w => decodeUop w

/-- The word that `nbits` and `w` name, in the numbering of spec/opcode_table.json: a UOP row has 8 bits, a BUS row 15 bits,
two whole bytes. A number with a bit above its format names no word. -/
def tableCodeWord (nbits w : Nat) : Option CodeWord :=
  if nbits ≤ 8 then
    if w < 2 ^ 8 then some (.uop (BitVec.ofNat 8 w)) else none
  else if w < 2 ^ 15 then some (.bus (BitVec.ofNat 15 w)) else none

/-- The instruction the decoder reads from the word `w` of an opcode-table row of `nbits` bits. -/
def decodeTableWord (nbits w : Nat) : Option Instr :=
  match tableCodeWord nbits w with
  | none => none
  | some c =>
    match decode c with
    | .ok i => some i
    | .error _ => none

/-! ### Encoding -/

/-- A bus write of `wdata` to `addr` (R71). -/
def encodeWrite (addr : BusAddr) (wdata : Byte) : CodeWord := .bus (mkBusWord true true addr wdata)

/-- A bus read of `addr`; a read ignores `wdata` but the pins carry it (R71, R78). -/
def encodeRead (addr : BusAddr) (wdata : Byte) : CodeWord := .bus (mkBusWord true false addr wdata)

/-- The word of an instruction (R71 to R73, R76, R77). -/
def encode : Instr → CodeWord
  | .busIdle x => .bus (0b0#1 ++ x)
  | .wrKeyData d => encodeWrite 0x04 d
  | .wrDinData d => encodeWrite 0x05 d
  | .wrCtrlNop x => encodeWrite 0x00 (x ++ 0b0#1)
  | .startEnc x => encodeWrite 0x00 (x ++ 0b001#3)
  | .startDec x => encodeWrite 0x00 (x ++ 0b011#3)
  | .startBadmode x m => encodeWrite 0x00 (x ++ 0b1#1 ++ m ++ 0b1#1)
  | .wrStatus d => encodeWrite 0x01 d
  | .wrCount a d => encodeWrite (0b0001#4 ++ a) d
  | .wrDout i d => encodeWrite (0b1#1 ++ i) d
  | .wrRsvd06 a d => encodeWrite (0b0011#4 ++ a) d
  | .wrRsvd08 a d => encodeWrite (0b01#2 ++ a) d
  | .rdCtrl d => encodeRead 0x00 d
  | .rdStatus d => encodeRead 0x01 d
  | .rdKeyCount d => encodeRead 0x02 d
  | .rdDinCount d => encodeRead 0x03 d
  | .rdKeyData d => encodeRead 0x04 d
  | .rdDinData d => encodeRead 0x05 d
  | .rdRsvd06 a d => encodeRead (0b0011#4 ++ a) d
  | .rdRsvd08 a d => encodeRead (0b01#2 ++ a) d
  | .rdDout i d => encodeRead (0b1#1 ++ i) d
  | .keyexp k => .uop (0x1#4 ++ k)
  | .ark r => .uop (0x2#4 ++ r)
  | .sb => .uop 0x30
  | .isb => .uop 0x40
  | .sr => .uop 0x50
  | .isr => .uop 0x60
  | .mc => .uop 0x70
  | .imc => .uop 0x80
  | .out => .uop 0x90

/-! ### The opcode table -/

/-- One row of spec/opcode_table.json: a word `w` of the row's format belongs to it when `w &&& mask = pattern`. -/
structure OpcodeRow where
  format : Format
  pattern : BitVec 15
  mask : BitVec 15
  deriving DecidableEq, Repr

/-- The row of an instruction, with the numbers of spec/opcode_table.json. -/
def Instr.row : Instr → OpcodeRow
  | .busIdle _ => ⟨.bus, 0, 16384⟩
  | .wrKeyData _ => ⟨.bus, 25600, 32512⟩
  | .wrDinData _ => ⟨.bus, 25856, 32512⟩
  | .wrCtrlNop _ => ⟨.bus, 24576, 32513⟩
  | .startEnc _ => ⟨.bus, 24577, 32519⟩
  | .startDec _ => ⟨.bus, 24579, 32519⟩
  | .startBadmode _ _ => ⟨.bus, 24581, 32517⟩
  | .wrStatus _ => ⟨.bus, 24832, 32512⟩
  | .wrCount _ _ => ⟨.bus, 25088, 32256⟩
  | .wrDout _ _ => ⟨.bus, 28672, 28672⟩
  | .wrRsvd06 _ _ => ⟨.bus, 26112, 32256⟩
  | .wrRsvd08 _ _ => ⟨.bus, 26624, 30720⟩
  | .rdCtrl _ => ⟨.bus, 16384, 32512⟩
  | .rdStatus _ => ⟨.bus, 16640, 32512⟩
  | .rdKeyCount _ => ⟨.bus, 16896, 32512⟩
  | .rdDinCount _ => ⟨.bus, 17152, 32512⟩
  | .rdKeyData _ => ⟨.bus, 17408, 32512⟩
  | .rdDinData _ => ⟨.bus, 17664, 32512⟩
  | .rdRsvd06 _ _ => ⟨.bus, 17920, 32256⟩
  | .rdRsvd08 _ _ => ⟨.bus, 18432, 30720⟩
  | .rdDout _ _ => ⟨.bus, 20480, 28672⟩
  | .keyexp _ => ⟨.uop, 16, 240⟩
  | .ark _ => ⟨.uop, 32, 240⟩
  | .sb => ⟨.uop, 48, 255⟩
  | .isb => ⟨.uop, 64, 255⟩
  | .sr => ⟨.uop, 80, 255⟩
  | .isr => ⟨.uop, 96, 255⟩
  | .mc => ⟨.uop, 112, 255⟩
  | .imc => ⟨.uop, 128, 255⟩
  | .out => ⟨.uop, 144, 255⟩

/-- A word belongs to a row. -/
def OpcodeRow.holds (r : OpcodeRow) : CodeWord → Bool
  | .bus w => r.format = .bus && w &&& r.mask = r.pattern
  | .uop w => r.format = .uop && w.setWidth 15 &&& r.mask = r.pattern

/-- The 21 bus rows of the table, in its order. -/
def busRows : List OpcodeRow :=
  [Instr.row (.busIdle 0), Instr.row (.wrKeyData 0), Instr.row (.wrDinData 0), Instr.row (.wrCtrlNop 0),
   Instr.row (.startEnc 0), Instr.row (.startDec 0), Instr.row (.startBadmode 0 0), Instr.row (.wrStatus 0),
   Instr.row (.wrCount 0 0), Instr.row (.wrDout 0 0), Instr.row (.wrRsvd06 0 0), Instr.row (.wrRsvd08 0 0),
   Instr.row (.rdCtrl 0), Instr.row (.rdStatus 0), Instr.row (.rdKeyCount 0), Instr.row (.rdDinCount 0),
   Instr.row (.rdKeyData 0), Instr.row (.rdDinData 0), Instr.row (.rdRsvd06 0 0), Instr.row (.rdRsvd08 0 0),
   Instr.row (.rdDout 0 0)]

end Sys2Proof
end

