-- ==== Sys2Proof/Machine/State.lean ====
section
/-! DEFINITION. The state of the core (10_state.md), the two ports of R180 the step reads and drives, the reasons a step can
stop, and the state after reset (R32). -/

namespace Sys2Proof.Machine

/-- PHASE: IDLE (0) or RUN (1) (R25). -/
inductive Phase where
  | idle
  | run
  deriving DecidableEq, Repr

/-- MODE_R: Encrypt (0) or Decrypt (1) (R24). -/
inductive Mode where
  | encrypt
  | decrypt
  deriving DecidableEq, Repr

/-- ERR: the four error codes of R210, code 0 first. -/
inductive ErrCode where
  | none
  | invalidKeyLength
  | invalidBlockLength
  | invalidMode
  deriving DecidableEq, Repr

/-- What the host drives in one cycle: `rst` and the bus word (R71, R180). -/
structure HostCycle where
  rst : Bool
  word : BusWord
  deriving DecidableEq, Repr

/-- Why the machine stops. -/
inductive Fault where
  /-- Raised by a micro-op whose word is reserved, `ReservedMicroOp(UPC, w)` of R163 and R167. Safe: the spec's own fault,
  and no state reached from reset fetches such a word. -/
  | reservedMicroOp (upc : BitVec 6) (w : UopWord)
  /-- Raised by the RUN fetch at a UPC above 50, which has no ROM word (U9). Safe: only a power-up state before the first
  reset has such a UPC. -/
  | noRomWord (upc : BitVec 6)
  deriving DecidableEq, Repr

/-- Why the model gives an instruction no meaning. -/
inductive Refusal where
  /-- Raised by exec for an instruction that has no meaning yet. Safe. No arm of exec uses it. -/
  | notModelled (mnemonic : String)
  deriving DecidableEq, Repr

/-- The state of the core (R20 to R28), and the model's own two fields for the ports (logs 1 and 2). -/
structure State where
  /-- STATE, the state register and input-block buffer (R20). -/
  state : Block
  /-- SCHED[0..10], the round-key schedule store (R21). -/
  sched : Schedule
  /-- DOUT, the output register (R22). -/
  dout : Block
  /-- KEY_CNT, 5 bits (R23). -/
  keyCnt : BitVec 5
  /-- DIN_CNT, 5 bits (R23). -/
  dinCnt : BitVec 5
  /-- MODE_R (R24). -/
  modeR : Mode
  /-- PHASE (R25). -/
  phase : Phase
  /-- UPC, 6 bits (R26). -/
  upc : BitVec 6
  /-- DONE (R27). -/
  done : Bool
  /-- ERR (R28). -/
  err : ErrCode
  /-- The model's own: what the port `rdata` carried in the last cycle (R181, log 2). -/
  rdata : Byte
  /-- The model's own: what the host drives in the coming cycles, the next one first (U10, log 1). -/
  host : List HostCycle
  deriving DecidableEq, Repr

/-- The state right after a reset edge (R32), with no host cycle waiting (log 1) and 0x00 on `rdata` (log 2). -/
def State.reset : State where
  state := Block.zero
  sched := Vector.replicate 11 Block.zero
  dout := Block.zero
  keyCnt := 0
  dinCnt := 0
  modeR := .encrypt
  phase := .idle
  upc := 0
  done := false
  err := .none
  rdata := 0
  host := []

end Sys2Proof.Machine
end

