-- ==== Sys2Proof/Machine/Gf.lean ====
section
/-! DEFINITION. The GF(2^8) multiplier (41_gf_arithmetic.md). -/

namespace Sys2Proof.Machine

/-- `xtime(a)`: multiplication by x modulo 0x11B (R121). -/
def xtime (a : Byte) : Byte := (a <<< 1) ^^^ (if a.getLsbD 7 then 0x1B else 0x00)

/-- The iterations of R120 for the bits `ks` of `b`, on the accumulator and the doubled multiplicand. -/
def gfLoop (b : Byte) : List Nat → Byte → Byte → Byte
  | [], acc, _ => acc
  | k :: ks, acc, a => gfLoop b ks (if b.getLsbD k then acc ^^^ a else acc) (xtime a)

/-- `gfMultiply(a, b)`: the 8 bits of `b`, least significant first (R120). -/
def gfMultiply (a b : Byte) : Byte := gfLoop b [0, 1, 2, 3, 4, 5, 6, 7] 0x00 a

end Sys2Proof.Machine
end

