-- ==== Sys2Proof/Machine/Transforms.lean ====
section
/-! DEFINITION. The functions on blocks: the one set of addressing helpers R140 asks for, the round transforms
(43_round_transforms.md) and one round of the key expansion (R131). -/

namespace Sys2Proof.Machine

/-! ### Layout -/

/-- `s[r][c]`, the byte at row r and column c: byte `r + 4*c` (R11). -/
def cell (s : Block) (r c : Fin 4) : Byte := s[r.val + 4 * c.val]

/-- The block whose byte at row r and column c is `f r c` (R11). -/
def ofCells (f : Fin 4 → Fin 4 → Byte) : Block :=
  Vector.ofFn fun i => f ⟨i.val % 4, Nat.mod_lt _ (by decide)⟩ ⟨i.val / 4, by have := i.isLt; omega⟩

/-- Word j of a block: bytes 4j..4j+3, column j (R12). -/
def wordOf (b : Block) (j : Fin 4) : KeyWord := Vector.ofFn fun i => b[4 * j.val + i.val]

/-- The block of four words in order (R12, R130). -/
def ofWords (w : Fin 4 → KeyWord) : Block :=
  Vector.ofFn fun i => (w ⟨i.val / 4, by have := i.isLt; omega⟩)[i.val % 4]

/-! ### The round transforms -/

/-- SubBytes (R141). -/
def subBytes (s : Block) : Block := Vector.ofFn fun i => sbox s[i]

/-- InvSubBytes (R142). -/
def invSubBytes (s : Block) : Block := Vector.ofFn fun i => invSbox s[i]

/-- ShiftRows: the byte at column (c + r) mod 4 of row r moves to column c (R143). -/
def shiftRows (s : Block) : Block := ofCells fun r c => cell s r (c + r)

/-- InvShiftRows: the byte at column (c - r) mod 4 of row r moves to column c (R144). -/
def invShiftRows (s : Block) : Block := ofCells fun r c => cell s r (c - r)

/-- Coefficient (r, j) of the matrix whose row 0 is `a` and whose every further row is the row above it turned one place to
the right. Both matrices of R145 and R146 have this form. -/
def circulant (a : KeyWord) (r j : Fin 4) : Byte := a[j - r]

/-- Row 0 of the matrix `M` (R145). -/
def mixRow : KeyWord := #v[2, 3, 1, 1]

/-- Row 0 of the inverse matrix `M'` (R146). -/
def invMixRow : KeyWord := #v[14, 11, 13, 9]

/-- Each column times the matrix of row `a` over GF(2^8): the XOR over j of coefficient (r, j) times `s[j][c]` (R145,
R122). -/
def mulColumns (a : KeyWord) (s : Block) : Block :=
  ofCells fun r c =>
    gfMultiply (circulant a r 0) (cell s 0 c) ^^^ gfMultiply (circulant a r 1) (cell s 1 c) ^^^
      gfMultiply (circulant a r 2) (cell s 2 c) ^^^ gfMultiply (circulant a r 3) (cell s 3 c)

/-- MixColumns (R145). -/
def mixColumns (s : Block) : Block := mulColumns mixRow s

/-- InvMixColumns (R146). -/
def invMixColumns (s : Block) : Block := mulColumns invMixRow s

/-- AddRoundKey with the round key `k` (R147). -/
def addRoundKey (k s : Block) : Block := Block.xor s k

/-! ### Key expansion -/

/-- `RotWord([a0,a1,a2,a3]) = [a1,a2,a3,a0]` (R12). -/
def rotWord (a : KeyWord) : KeyWord := #v[a[1], a[2], a[3], a[0]]

/-- `SubWord`: `SBOX` on each of the 4 bytes (R12). -/
def subWord (a : KeyWord) : KeyWord := Vector.ofFn fun i => sbox a[i]

/-- The word with its first byte XORed with the round constant of round k (R130). -/
def addRcon (k : Nat) (a : KeyWord) : KeyWord := #v[a[0] ^^^ rcon k, a[1], a[2], a[3]]

/-- `ExpandRound(p, k)` (R131). -/
def expandRound (p : Block) (k : Nat) : Block :=
  let t := addRcon k (subWord (rotWord (wordOf p 3)))
  let n0 := KeyWord.xor (wordOf p 0) t
  let n1 := KeyWord.xor (wordOf p 1) n0
  let n2 := KeyWord.xor (wordOf p 2) n1
  let n3 := KeyWord.xor (wordOf p 3) n2
  ofWords fun j => #v[n0, n1, n2, n3][j]

end Sys2Proof.Machine
end

