-- ==== Sys2Proof/Machine/Operands.lean ====
section
/-! DEFINITION. The operand forms (R74, R75): the mode of a START write, the byte index of DOUT, the round index of KEYEXP
and ARK, and the zero extension of R10. -/

namespace Sys2Proof.Machine

/-- `zext_8(v)` of a 5-bit field (R10). -/
def zext8 (v : BitVec 5) : Byte := v.setWidth 8

/-- The direction a mode field latches: `MODE_R <- mode[0]` (R24, R191). -/
def modeDirection (mode : BitVec 2) : Mode := if mode.getLsbD 0 then .decrypt else .encrypt

/-- The mode of a START_BADMODE write: MODE[1] = 1 and MODE[0] as written (R190). -/
def badMode (mode0 : BitVec 1) : BitVec 2 := 0b1#1 ++ mode0

/-- `DOUT[i]`, with `i = addr[3:0]` (R74, R200). -/
def doutByte (dout : Block) (i : BitVec 4) : Byte := dout[i.toNat]'i.isLt

/-- The round of KEYEXP: for a legal `k` in 1..10, the index k - 1 of the round key it reads (R75, R132). -/
def keyexpSource (k : BitVec 4) : Option (Fin 10) :=
  if h : 1 ≤ k.toNat ∧ k.toNat ≤ 10 then some ⟨k.toNat - 1, by omega⟩ else none

/-- The round of ARK: a legal `r` in 0..10 (R75, R147). -/
def arkRound (r : BitVec 4) : Option (Fin 11) :=
  if h : r.toNat ≤ 10 then some ⟨r.toNat, by omega⟩ else none

end Sys2Proof.Machine
end

