-- ==== Sys2Proof/Machine/Flags.lean ====
section
/-! DEFINITION. The flags of STATUS (R25, R27, R28, R34) and the checks that compute ERR (R210 to R212). -/

namespace Sys2Proof.Machine

/-- `BUSY` is `PHASE = RUN` (R25). -/
def busy (s : State) : Bool := decide (s.phase = .run)

/-- The numeric code of ERR (R210). -/
def ErrCode.bits : ErrCode → BitVec 2
  | .none => 0
  | .invalidKeyLength => 1
  | .invalidBlockLength => 2
  | .invalidMode => 3

/-- `STATUS = {0000, ERR, DONE, BUSY}` (R34). -/
def statusByte (s : State) : Byte :=
  0b0000#4 ++ s.err.bits ++ BitVec.ofBool s.done ++ BitVec.ofBool (busy s)

/-- `StartCheck(S, mode)`: key length, then block length, then mode (R212). -/
def startCheck (s : State) (mode : BitVec 2) : ErrCode :=
  if s.keyCnt ≠ 16 then .invalidKeyLength
  else if s.dinCnt ≠ 16 then .invalidBlockLength
  else if mode.getLsbD 1 then .invalidMode
  else .none

end Sys2Proof.Machine
end

