-- ==== Sys2Proof/Machine/Ops.lean ====
section
/-! DEFINITION. The operations the meanings share: answering on `rdata`, bus reads and writes (R182, R183), pushes (R185,
R186), START and the recording of a caller error (R191, R213), and the micro-op step on STATE (R140). -/

namespace Sys2Proof.Machine

/-- What a meaning answers. -/
abbrev Result := Host.Outcome State Fault Refusal

/-! ### The port rdata -/

/-- The port `rdata` carries `v` in this cycle (R181). -/
def drive (v : Byte) (s : State) : State := { s with rdata := v }

/-! ### Pushes -/

/-- The count after one more push: `min(cnt + 1, 17)` (R23, R185, R186). -/
def bumpCount (cnt : BitVec 5) : BitVec 5 := BitVec.ofNat 5 (min (cnt.toNat + 1) Config.countLimit)

/-- The block after a push at count `cnt`: byte `cnt` is `d` if `cnt < 16`, else nothing is stored (R185, R186). -/
def storePush (b : Block) (cnt : BitVec 5) (d : Byte) : Block :=
  if h : cnt.toNat < 16 then b.set cnt.toNat d else b

/-- `PushKey(S, d)` (R185). -/
def pushKey (d : Byte) (s : State) : State :=
  { s with sched := s.sched.set 0 (storePush s.sched[0] s.keyCnt d), keyCnt := bumpCount s.keyCnt }

/-- `PushDin(S, d)` (R186). -/
def pushDin (d : Byte) (s : State) : State :=
  { s with state := storePush s.state s.dinCnt d, dinCnt := bumpCount s.dinCnt }

/-! ### START, and recording a caller error -/

/-- Taking an error: exactly the updates of R213. There is no saved pc, no mode change and no handler. An error is cleared by
the next START write or by reset and by nothing else (R215). -/
def recordError (code : ErrCode) (s : State) : State :=
  { s with err := code, done := false, keyCnt := 0, dinCnt := 0 }

/-- An accepted START (R191): the previous error is cleared, the mode latched, and RUN entered at UPC 0. -/
def acceptCall (mode : BitVec 2) (s : State) : State :=
  { s with
    keyCnt := 0, dinCnt := 0, done := false, err := .none
    modeR := modeDirection mode, phase := .run, upc := 0 }

/-- `Start(S, mode)` (R191). -/
def start (mode : BitVec 2) (s : State) : State :=
  match startCheck s mode with
  | .none => acceptCall mode s
  | code => recordError code s

/-! ### Bus cycles -/

/-- A cycle that carries no read: `rdata` is 0x00 (R181), and the effect `eff` of the write happens only while IDLE (R183). -/
def hostWrite (eff : State → State) (s : State) : Result :=
  match s.phase with
  | .idle => .next (drive 0x00 (eff s))
  | .run => .next (drive 0x00 s)

/-- A cycle that carries a read answered by `v`: no state changes (R54, R182). -/
def hostRead (v : Byte) (s : State) : Result := .next (drive v s)

/-- `BusRead(S, addr)` (R182). -/
def busRead (s : State) (addr : BusAddr) : Byte :=
  if addr = 0x01 then statusByte s
  else if addr = 0x02 then zext8 s.keyCnt
  else if addr = 0x03 then zext8 s.dinCnt
  else if 0x10 ≤ addr then doutByte s.dout (addr.extractLsb' 0 4)
  else 0x00

/-- What `rdata` carries in a cycle with bus word `w` (R160, R181). -/
def cycleRdata (s : State) (w : BusWord) : Byte :=
  if busSel w = true ∧ busWe w = false then busRead s (busAddr w) else 0x00

/-- `BusWrite(S, addr, wdata)` (R183). -/
def busWrite (s : State) (addr : BusAddr) (wdata : Byte) : State :=
  if addr = 0x00 then
    if ctrlStart wdata then start (ctrlMode wdata) s else s
  else if addr = 0x04 then pushKey wdata s
  else if addr = 0x05 then pushDin wdata s
  else s

/-! ### Micro-ops -/

/-- `UPC <- UPC + 1`, the end of every micro-op but OUT (R163). -/
def advance (s : State) : State := { s with upc := s.upc + 1 }

/-- A round micro-op: `STATE <- F(STATE)`; `UPC <- UPC + 1` (R140). -/
def transform (f : Block → Block) (s : State) : Result := .next (advance { s with state := f s.state })

/-- A micro-op whose word is reserved: `ReservedMicroOp(UPC, w)` (R163, R167). -/
def reservedUop (w : UopWord) (s : State) : Result := .fault (.reservedMicroOp s.upc w)

end Sys2Proof.Machine
end

