-- ==== Sys2Proof/Machine/HostReads.lean ====
section
/-! DEFINITION. The meanings of the bus reads, in every phase (R196 to R202). -/

namespace Sys2Proof.Machine

/-- RD_CTRL: a write-only address reads 0x00 (R196). -/
def execRdCtrl (_ignored : Byte) (s : State) : Result := hostRead 0x00 s

/-- RD_STATUS: `{0000, ERR, DONE, PHASE = RUN}` (R197). -/
def execRdStatus (_ignored : Byte) (s : State) : Result := hostRead (statusByte s) s

/-- RD_KEY_COUNT: `zext_8(KEY_CNT)` (R198). -/
def execRdKeyCount (_ignored : Byte) (s : State) : Result := hostRead (zext8 s.keyCnt) s

/-- RD_DIN_COUNT: `zext_8(DIN_CNT)` (R199). -/
def execRdDinCount (_ignored : Byte) (s : State) : Result := hostRead (zext8 s.dinCnt) s

/-- RD_KEY_DATA: a write-only address reads 0x00 (R196). -/
def execRdKeyData (_ignored : Byte) (s : State) : Result := hostRead 0x00 s

/-- RD_DIN_DATA: a write-only address reads 0x00 (R196). -/
def execRdDinData (_ignored : Byte) (s : State) : Result := hostRead 0x00 s

/-- RD_RSVD_06: 0x06..0x07 read 0x00 (R201). -/
def execRdRsvd06 (_addr0 : BitVec 1) (_ignored : Byte) (s : State) : Result := hostRead 0x00 s

/-- RD_RSVD_08: 0x08..0x0F read 0x00 (R201). -/
def execRdRsvd08 (_addr : BitVec 3) (_ignored : Byte) (s : State) : Result := hostRead 0x00 s

/-- RD_DOUT: `DOUT[i]` (R200). -/
def execRdDout (i : BitVec 4) (_ignored : Byte) (s : State) : Result := hostRead (doutByte s.dout i) s

end Sys2Proof.Machine
end

