-- ==== Sys2Proof/Machine/HostWrites.lean ====
section
/-! DEFINITION. The meanings of the idle cycle and of the bus writes that start no call (45_host_interface.md). -/

namespace Sys2Proof.Machine

/-- BUS_IDLE: no state change from the bus; the other pins are ignored (R184). -/
def execBusIdle (_ignored : BitVec 14) (s : State) : Result := hostWrite id s

/-- WR_KEY_DATA: push a key byte (R185). -/
def execWrKeyData (d : Byte) (s : State) : Result := hostWrite (pushKey d) s

/-- WR_DIN_DATA: push a block byte (R186). -/
def execWrDinData (d : Byte) (s : State) : Result := hostWrite (pushDin d) s

/-- WR_CTRL_NOP: no state change, whatever MODE and the reserved bits are (R187). -/
def execWrCtrlNop (_ignored : BitVec 7) (s : State) : Result := hostWrite id s

/-- WR_STATUS: ignored, STATUS is read-only (R192). -/
def execWrStatus (_ignored : Byte) (s : State) : Result := hostWrite id s

/-- WR_COUNT: ignored, the counts are read-only (R193). -/
def execWrCount (_addr0 : BitVec 1) (_ignored : Byte) (s : State) : Result := hostWrite id s

/-- WR_DOUT: ignored, DOUT is read-only (R194). -/
def execWrDout (_i : BitVec 4) (_ignored : Byte) (s : State) : Result := hostWrite id s

/-- WR_RSVD_06: a write to 0x06..0x07, ignored (R195). -/
def execWrRsvd06 (_addr0 : BitVec 1) (_ignored : Byte) (s : State) : Result := hostWrite id s

/-- WR_RSVD_08: a write to 0x08..0x0F, ignored (R195). -/
def execWrRsvd08 (_addr : BitVec 3) (_ignored : Byte) (s : State) : Result := hostWrite id s

end Sys2Proof.Machine
end

