-- ==== Sys2Proof/Machine/KeyExpansion.lean ====
section
/-! DEFINITION. The meaning of KEYEXP (R132). -/

namespace Sys2Proof.Machine

/-- KEYEXP k: `SCHED[k] <- ExpandRound(SCHED[k-1], k)`; `UPC <- UPC + 1` (R132). A reserved `k` is the fault of R167. -/
def execKeyexp (k : BitVec 4) (s : State) : Result :=
  match keyexpSource k with
  | some j => .next (advance { s with sched := s.sched.set (j.val + 1) (expandRound s.sched[j.val] (j.val + 1)) })
  | none => reservedUop (0x1#4 ++ k) s

end Sys2Proof.Machine
end

