-- ==== Sys2Proof/Machine/RoundOps.lean ====
section
/-! DEFINITION. The meanings of the round micro-ops (43_round_transforms.md) and of OUT (R164). -/

namespace Sys2Proof.Machine

/-- ARK r: `STATE <- STATE XOR SCHED[r]` (R147). A reserved `r` is the fault of R167. -/
def execArk (r : BitVec 4) (s : State) : Result :=
  match arkRound r with
  | some j => transform (addRoundKey s.sched[j]) s
  | none => reservedUop (0x2#4 ++ r) s

/-- SB (R141). -/
def execSb (s : State) : Result := transform subBytes s

/-- ISB (R142). -/
def execIsb (s : State) : Result := transform invSubBytes s

/-- SR (R143). -/
def execSr (s : State) : Result := transform shiftRows s

/-- ISR (R144). -/
def execIsr (s : State) : Result := transform invShiftRows s

/-- MC (R145). -/
def execMc (s : State) : Result := transform mixColumns s

/-- IMC (R146). -/
def execImc (s : State) : Result := transform invMixColumns s

/-- OUT: `DOUT <- STATE`; `DONE <- 1`; `PHASE <- IDLE`; UPC is not incremented (R164). -/
def execOut (s : State) : Result := .next { s with dout := s.state, done := true, phase := .idle }

end Sys2Proof.Machine
end

