-- ==== Sys2Proof/Machine/Start.lean ====
section
/-! DEFINITION. The meanings of the three START writes (R188 to R191). -/

namespace Sys2Proof.Machine

/-- START_ENC: `Start(S, 00)` (R188). -/
def execStartEnc (_reserved : BitVec 5) (s : State) : Result := hostWrite (start 0b00) s

/-- START_DEC: `Start(S, 01)` (R189). -/
def execStartDec (_reserved : BitVec 5) (s : State) : Result := hostWrite (start 0b01) s

/-- START_BADMODE: `Start(S, MODE)` with MODE[1] = 1, always rejected (R190). -/
def execStartBadmode (_reserved : BitVec 5) (mode0 : BitVec 1) (s : State) : Result := hostWrite (start (badMode mode0)) s

end Sys2Proof.Machine
end

