-- ==== Sys2Proof/Machine/Dispatch.lean ====
section
/-! DEFINITION. The dispatch: one arm per instruction. -/

namespace Sys2Proof.Machine

def exec (i : Instr) (s : State) : Host.Outcome State Fault Refusal :=
  match i with
  | .busIdle x => Sys2Proof.Machine.execBusIdle x s
  | .wrKeyData d => Sys2Proof.Machine.execWrKeyData d s
  | .wrDinData d => Sys2Proof.Machine.execWrDinData d s
  | .wrCtrlNop x => Sys2Proof.Machine.execWrCtrlNop x s
  | .startEnc x => Sys2Proof.Machine.execStartEnc x s
  | .startDec x => Sys2Proof.Machine.execStartDec x s
  | .startBadmode x m => Sys2Proof.Machine.execStartBadmode x m s
  | .wrStatus x => Sys2Proof.Machine.execWrStatus x s
  | .wrCount a x => Sys2Proof.Machine.execWrCount a x s
  | .wrDout k x => Sys2Proof.Machine.execWrDout k x s
  | .wrRsvd06 a x => Sys2Proof.Machine.execWrRsvd06 a x s
  | .wrRsvd08 a x => Sys2Proof.Machine.execWrRsvd08 a x s
  | .rdCtrl x => Sys2Proof.Machine.execRdCtrl x s
  | .rdStatus x => Sys2Proof.Machine.execRdStatus x s
  | .rdKeyCount x => Sys2Proof.Machine.execRdKeyCount x s
  | .rdDinCount x => Sys2Proof.Machine.execRdDinCount x s
  | .rdKeyData x => Sys2Proof.Machine.execRdKeyData x s
  | .rdDinData x => Sys2Proof.Machine.execRdDinData x s
  | .rdRsvd06 a x => Sys2Proof.Machine.execRdRsvd06 a x s
  | .rdRsvd08 a x => Sys2Proof.Machine.execRdRsvd08 a x s
  | .rdDout k x => Sys2Proof.Machine.execRdDout k x s
  | .keyexp k => Sys2Proof.Machine.execKeyexp k s
  | .ark r => Sys2Proof.Machine.execArk r s
  | .sb => Sys2Proof.Machine.execSb s
  | .isb => Sys2Proof.Machine.execIsb s
  | .sr => Sys2Proof.Machine.execSr s
  | .isr => Sys2Proof.Machine.execIsr s
  | .mc => Sys2Proof.Machine.execMc s
  | .imc => Sys2Proof.Machine.execImc s
  | .out => Sys2Proof.Machine.execOut s

end Sys2Proof.Machine
end

