-- ==== Sys2Proof/Machine/Edge.lean ====
section
/-! DEFINITION. One rising edge of the clock (R160): what the host drives in the cycle, the fetch of a micro-op (R163), and
the priority of reset over the micro-op over the bus. -/

namespace Sys2Proof.Machine

/-! ### The host's next cycle -/

/-- A cycle in which the host drives nothing: `rst = 0`, `sel = 0`. -/
def idleCycle : HostCycle := { rst := false, word := 0 }

/-- The host's pin values of the coming cycle; past the end of the list the host is idle (log 1). -/
def nextCycle (s : State) : HostCycle :=
  match s.host with
  | [] => idleCycle
  | c :: _ => c

/-- The state once the host's cycle has been taken from the list (log 1). -/
def takeCycle (s : State) : State := { s with host := s.host.tail }

/-! ### Fetch -/

/-- The micro-op of the edge: the word of the selected micro-program at UPC, decoded (R163). -/
def fetchUop (s : State) : Except Fault Instr :=
  match progWord s.modeR s.upc with
  | none => .error (.noRomWord s.upc)
  | some w =>
    match decodeUop w with
    | .ok i => .ok i
    | .error _ => .error (.reservedMicroOp s.upc w)

/-- The first index of a word in a micro-program. -/
def findWord (w : UopWord) : Nat → List UopWord → Option Nat
  | _, [] => none
  | n, x :: xs => if x = w then some n else findWord w (n + 1) xs

/-- Where a micro-op word stands in ROM: in ENC_PROG, else in DEC_PROG. Every word that is not reserved stands in one. -/
def romPlace (w : UopWord) : Option (Mode × BitVec 6) :=
  match findWord w 0 ENC_PROG.toList with
  | some n => some (.encrypt, BitVec.ofNat 6 n)
  | none =>
    match findWord w 0 DEC_PROG.toList with
    | some n => some (.decrypt, BitVec.ofNat 6 n)
    | none => none

/-! ### The edge -/

/-- An edge with `rst = 1`: every element takes its reset value (R230); `rdata` follows R181 on the pre-edge state, and the
cycles the host will drive are not the core's to reset. -/
def resetEdge (w : BusWord) (s : State) : State :=
  { State.reset with rdata := cycleRdata s w, host := s.host }

/-- `RunStep(S)` (R163). -/
def runStep (s : State) : Result :=
  match fetchUop s with
  | .ok i => exec i s
  | .error f => .fault f

/-- One edge of the core in the host's cycle `c` (R160). In RUN the bus word only drives `rdata`, from the pre-edge state, and
the micro-op of the edge runs (log 3). -/
def edge (c : HostCycle) (s : State) : Result :=
  if c.rst then .next (resetEdge c.word s)
  else
    match s.phase with
    | .idle => exec (decodeBus c.word) s
    | .run =>
      match exec (decodeBus c.word) s with
      | .next s' => runStep s'
      | .fault f => .fault f
      | .refused r => .refused r

/-! ### Placing a word to be run next -/

/-- The state whose next step runs the bus word `w` and nothing else (log 8). -/
def placeBus (s : State) (w : BusWord) : State :=
  { s with phase := .idle, host := { rst := false, word := w } :: s.host }

/-- The state whose next step runs the micro-op word `w`, in a cycle where the host is idle: RUN at a place of ROM that holds
`w`. No place holds a reserved word; UPC 63 then makes the next step stop rather than run another word (log 8). -/
def placeUop (s : State) (w : UopWord) : State :=
  match romPlace w with
  | some (m, n) => { s with phase := .run, modeR := m, upc := n, host := idleCycle :: s.host }
  | none => { s with phase := .run, upc := 63, host := idleCycle :: s.host }

end Sys2Proof.Machine
end

