-- ==== Sys2Proof/Machine/Step.lean ====
section
/-! DEFINITION. The step of the machine: one rising edge in the host's next cycle (R160, log 1), and how the host of the
pipeline places a word to be run by the very next step (log 8). -/

namespace Sys2Proof.Machine

/-- One rising edge of the clock. -/
def step (s : State) : Host.Outcome State Fault Refusal := edge (nextCycle s) (takeCycle s)

/-- The state whose next step fetches and runs exactly the word `w` of an opcode-table row of `nbits` bits; a number that
names no word changes nothing (logs 8 and 9). -/
def State.withFetchWord (s : State) (nbits w : Nat) : State :=
  match tableCodeWord nbits w with
  | some (.bus b) => placeBus s b
  | some (.uop u) => placeUop s u
  | none => s

end Sys2Proof.Machine
end

