-- ==== Sys2Proof/Machine/Cipher.lean ====
section
/-! DEFINITION. What the micro-programs compute, as the source's pure functions: the key schedule by words (R130) and the two
cipher directions (R165, R166). The step does not call them; statements compare the step with them. -/

namespace Sys2Proof.Machine

/-- Word `w[i]` of the key schedule, by the word loop of R130 (read for i in 0..43). -/
def scheduleWord (key : Block) : Nat → KeyWord
  | 0 => wordOf key 0
  | 1 => wordOf key 1
  | 2 => wordOf key 2
  | 3 => wordOf key 3
  | n + 4 =>
    KeyWord.xor (scheduleWord key n)
      (if (n + 4) % 4 = 0 then addRcon ((n + 4) / 4) (subWord (rotWord (scheduleWord key (n + 3))))
       else scheduleWord key (n + 3))

/-- `SCHED[r] = w[4r] ++ w[4r+1] ++ w[4r+2] ++ w[4r+3]` (R130). -/
def roundKey (key : Block) (r : Nat) : Block := ofWords fun j => scheduleWord key (4 * r + j.val)

/-- One encrypt round 1..9: SubBytes, ShiftRows, MixColumns, AddRoundKey (R165). -/
def encRound (key : Block) (r : Nat) (s : Block) : Block :=
  addRoundKey (roundKey key r) (mixColumns (shiftRows (subBytes s)))

/-- One decrypt round 9..1: InvShiftRows, InvSubBytes, AddRoundKey, InvMixColumns (R166). -/
def decRound (key : Block) (r : Nat) (s : Block) : Block :=
  invMixColumns (addRoundKey (roundKey key r) (invSubBytes (invShiftRows s)))

/-- AES-128 encryption of one block (R165). -/
def aesEncrypt (key p : Block) : Block :=
  let s := [1, 2, 3, 4, 5, 6, 7, 8, 9].foldl (fun s r => encRound key r s) (addRoundKey (roundKey key 0) p)
  addRoundKey (roundKey key 10) (shiftRows (subBytes s))

/-- AES-128 decryption of one block (R166). -/
def aesDecrypt (key c : Block) : Block :=
  let s := [9, 8, 7, 6, 5, 4, 3, 2, 1].foldl (fun s r => decRound key r s) (addRoundKey (roundKey key 10) c)
  addRoundKey (roundKey key 0) (invSubBytes (invShiftRows s))

/-- `AES128(mode, key, block)` (R204). -/
def aes : Mode → Block → Block → Block
  | .encrypt => aesEncrypt
  | .decrypt => aesDecrypt

end Sys2Proof.Machine
end

