-- ==== Sys2Proof/Safety.lean ====
section
/-! DEFINITION. The terms of the statements: the reachable-state invariant of R31, what two states share of what a host can
ever see (R40), what a host does over several cycles, the affine map of the substitution box (R101), and one round of the
key expansion byte by byte (R131). -/

namespace Sys2Proof.Machine

/-! ### Reachable states -/

/-- The round keys 0..UPC are those of the schedule of `SCHED[0]`. At `UPC >= 10` this is R31 (e). -/
def schedReady (s : State) : Prop :=
  ∀ k : Fin 11, k.val ≤ s.upc.toNat → s.sched[k] = roundKey s.sched[0] k.val

/-- The invariant of R31, with (e) in the form that every edge keeps. -/
structure Inv (s : State) : Prop where
  /-- R31 (a). -/
  keyCnt_le : s.keyCnt.toNat ≤ 17
  /-- R31 (a). -/
  dinCnt_le : s.dinCnt.toNat ≤ 17
  /-- R31 (b). -/
  run_upc : s.phase = .run → s.upc.toNat ≤ 50
  /-- R31 (b). -/
  run_clear : s.phase = .run → s.done = false ∧ s.err = .none ∧ s.keyCnt = 0 ∧ s.dinCnt = 0
  /-- R31 (c) and (d), with (b). -/
  done_noErr : s.done = true → s.err = .none
  /-- R31 (e). -/
  run_sched : s.phase = .run → schedReady s

/-! ### What the host can ever see -/

/-- Two states agree on everything a later read can depend on, the host's coming cycles included: the flags, the counts, DOUT,
the bytes pushed so far while IDLE, and the call in progress while RUN. They may differ in what earlier calls left in
`STATE`, `SCHED`, `MODE_R` and `UPC` (R40). -/
structure SameView (s t : State) : Prop where
  host : s.host = t.host
  phase : s.phase = t.phase
  dout : s.dout = t.dout
  done : s.done = t.done
  err : s.err = t.err
  keyCnt : s.keyCnt = t.keyCnt
  dinCnt : s.dinCnt = t.dinCnt
  loadedKey : s.phase = .idle → ∀ j : Fin 16, j.val < s.keyCnt.toNat → s.sched[0][j] = t.sched[0][j]
  loadedBlock : s.phase = .idle → ∀ j : Fin 16, j.val < s.dinCnt.toNat → s.state[j] = t.state[j]
  call : s.phase = .run → s.modeR = t.modeR ∧ s.upc = t.upc ∧ s.state = t.state ∧
    ∀ k : Fin 11, k.val ≤ s.upc.toNat → s.sched[k] = t.sched[k]

/-! ### What the host does -/

/-- None of the cycles has `rst = 1`. -/
def noReset (cycles : List HostCycle) : Prop := ∀ c ∈ cycles, c.rst = false

/-- The word is a bus write to `addr`. -/
def isWriteTo (addr : BusAddr) (w : BusWord) : Bool := busSel w && busWe w && decide (busAddr w = addr)

/-- The word is a bus read. -/
def isRead (w : BusWord) : Bool := busSel w && !busWe w

/-- The word is a START write (R17, R72). -/
def isStart (w : BusWord) : Bool := isWriteTo 0x00 w && ctrlStart (busWdata w)

/-- The bytes that bus writes to `addr` carry, in order. -/
def writtenTo (addr : BusAddr) (cycles : List HostCycle) : List Byte :=
  (cycles.filter fun c => isWriteTo addr c.word).map fun c => busWdata c.word

/-- Cycles in which the host loads: no reset and no START write. -/
def loading (cycles : List HostCycle) : Prop := ∀ c ∈ cycles, c.rst = false ∧ isStart c.word = false

/-- The value of the MODE field that requests a direction (R33). -/
def modeField : Mode → BitVec 2
  | .encrypt => 0b00
  | .decrypt => 0b01

/-! ### The substitution box -/

/-- The affine map of R101: bit i of the result is the XOR of bits i, i+4, i+5, i+6 and i+7 (mod 8) of `x` and of bit i of
0x63. -/
def affine (x : Byte) : Byte :=
  x ^^^ x.rotateLeft 4 ^^^ x.rotateLeft 3 ^^^ x.rotateLeft 2 ^^^ x.rotateLeft 1 ^^^ 0x63

/-! ### The key expansion -/

/-- `q` is the round key after `p` for the round constant `c`, byte by byte (R131, R12): the first word of `q` is that of `p`
XORed with the last word of `p`, turned left by one byte and substituted, and with `c` in its first byte; each further word
is that of `p` XORed with the word of `q` before it. -/
def nextRoundKey (c : Byte) (p q : Block) : Prop :=
  q[0] = p[0] ^^^ sbox p[13] ^^^ c ∧
  q[1] = p[1] ^^^ sbox p[14] ∧
  q[2] = p[2] ^^^ sbox p[15] ∧
  q[3] = p[3] ^^^ sbox p[12] ∧
  ∀ i : Fin 12, q[i.val + 4] = p[i.val + 4] ^^^ q[i.val]

end Sys2Proof.Machine
end

