-- ==== Sys2Proof/Certificates/Slice0/Obligations.lean ====
section
/-! DEFINITION. The statements for the provers. Each docstring names the rule or section of spec/ it formalises. -/

open Sys2Proof Sys2Proof.Machine

/-! ### Encodings -/

/-- Decoding the word of a well-formed instruction gives the instruction back, with every operand (R71 to R77). -/
def Obligations.DecodingAnEncodedInstructionReturnsIt : Prop :=
  ∀ i : Instr, i.wf = true → decode (encode i) = .ok i

/-- A word that decodes is the word of the instruction it decodes to, and that instruction is well formed. That no bit of a
word is dropped is the model's choice of log 11: it carries the ignored and reserved bits as operands, where by R72 and R78
words that differ in them are the same command. -/
def Obligations.EncodingADecodedWordReturnsIt : Prop :=
  ∀ (c : CodeWord) (i : Instr), decode c = .ok i → encode i = c ∧ i.wf = true

/-- R76: every bus word belongs to exactly one of the 21 rows, the row of the operation it decodes to. -/
def Obligations.EveryBusWordIsInExactlyOneRow : Prop :=
  ∀ w : BusWord, (decodeBus w).row ∈ busRows ∧
    ∀ r ∈ busRows, r.holds (.bus w) = true ↔ r = (decodeBus w).row

/-- The reserved micro-op words are exactly those R79 lists, and no ROM word is one of them. That KEYEXP and ARK with a
reserved round end in the fault ReservedMicroOp is log 6 (R163, R167, U2; a refusal would do as well). -/
def Obligations.ReservedMicroOpWords : Prop :=
  (∀ w : UopWord, (decodeUop w).isOk = false ↔
    ((uopOpc w = 0x0 ∨ 0xA ≤ uopOpc w) ∨
      (uopOpc w = 0x1 ∧ (uopArg w = 0 ∨ 11 ≤ uopArg w)) ∨
      (uopOpc w = 0x2 ∧ 11 ≤ uopArg w) ∨
      (0x3 ≤ uopOpc w ∧ uopOpc w ≤ 0x9 ∧ uopArg w ≠ 0))) ∧
  (∀ (m : Mode) (n : Fin 51), (decodeUop (prog m)[n]).isOk = true) ∧
  (∀ (k : BitVec 4) (s : State), (Instr.keyexp k).wf = false →
    exec (.keyexp k) s = .fault (.reservedMicroOp s.upc (0x1#4 ++ k))) ∧
  (∀ (r : BitVec 4) (s : State), (Instr.ark r).wf = false →
    exec (.ark r) s = .fault (.reservedMicroOp s.upc (0x2#4 ++ r)))

/-- Words written out from R71 to R73, R76 and R77: thirteen decode to the instructions they stand for and two reserved ones
to none. The numbering of the words is log 9, and the ignored bits as operands (BUS_IDLE, the CTRL writes, the reads, the
write to 0x0A) are the model's choice of log 11. -/
def Obligations.WordsOfTheSpecDecode : Prop :=
  decodeTableWord 16 0x642b = some (.wrKeyData 0x2b) ∧
  decodeTableWord 16 0x65ff = some (.wrDinData 0xff) ∧
  decodeTableWord 16 0x6001 = some (.startEnc 0) ∧
  decodeTableWord 16 0x6003 = some (.startDec 0) ∧
  decodeTableWord 16 0x6007 = some (.startBadmode 0 1) ∧
  decodeTableWord 16 0x60fe = some (.wrCtrlNop 0x7f) ∧
  decodeTableWord 16 0x4100 = some (.rdStatus 0) ∧
  decodeTableWord 16 0x5f00 = some (.rdDout 15 0) ∧
  decodeTableWord 16 0x6a55 = some (.wrRsvd08 2 0x55) ∧
  decodeTableWord 16 0x2412 = some (.busIdle 0x2412) ∧
  decodeTableWord 8 0x1a = some (.keyexp 10) ∧
  decodeTableWord 8 0x20 = some (.ark 0) ∧
  decodeTableWord 8 0x90 = some .out ∧
  decodeTableWord 8 0x10 = none ∧
  decodeTableWord 8 0x31 = none

/-! ### The edge -/

/-- In IDLE and without reset, a step is exec of the decoded bus word, once the host's cycle is taken from the list. The list
is the model's own (log 1). -/
def Obligations.StepInIdleRunsTheBusWord : Prop :=
  ∀ (s : State) (c : HostCycle) (h : List HostCycle),
    s.host = c :: h → c.rst = false → s.phase = .idle →
      step s = exec (decodeBus c.word) { s with host := h }

/-- In RUN and without reset, a step is exec of the micro-op at UPC, once the host's cycle is taken and `rdata` driven from the
pre-edge state (R160, R163; the list and the field `rdata` are the model's own, logs 1 and 2). -/
def Obligations.StepInRunRunsTheFetchedMicroOp : Prop :=
  ∀ (s : State) (c : HostCycle) (h : List HostCycle) (w : UopWord) (i : Instr),
    s.host = c :: h → c.rst = false → s.phase = .run →
    progWord s.modeR s.upc = some w → decodeUop w = .ok i →
      step s = exec i { s with host := h, rdata := cycleRdata s c.word }

/-- The model's choice of log 1: past the end of the list the host drives `rst = 0` and `sel = 0`. -/
def Obligations.EmptyHostListIsAnIdleHost : Prop :=
  ∀ s : State, s.host = [] → step s = step { s with host := [{ rst := false, word := 0 }] }

/-- R230: an edge with `rst = 1` gives every element its reset value of R32, whatever the state and the bus inputs, and `rdata`
follows R181 on the pre-edge state. -/
def Obligations.ResetEdgeSetsEveryElement : Prop :=
  ∀ (s : State) (c : HostCycle) (h : List HostCycle), s.host = c :: h → c.rst = true →
    ∃ t, step s = .next t ∧
      (∀ i : Fin 16, t.state[i] = 0) ∧ (∀ (k : Fin 11) (i : Fin 16), t.sched[k][i] = 0) ∧
      (∀ i : Fin 16, t.dout[i] = 0) ∧ t.keyCnt = 0 ∧ t.dinCnt = 0 ∧ t.modeR = .encrypt ∧ t.phase = .idle ∧
      t.upc = 0 ∧ t.done = false ∧ t.err = .none ∧
      t.rdata = (if isRead c.word then busRead s (busAddr c.word) else 0x00) ∧ t.host = h

/-- R160: the step is the edge function the rule writes out, over `BusRead` and `BusWrite` by address (R182, R183), although
exec goes through the decoded operations. -/
def Obligations.StepIsTheEdgeFunction : Prop :=
  ∀ (s : State) (c : HostCycle) (h : List HostCycle), s.host = c :: h →
    step s =
      if c.rst then
        .next { State.reset with rdata := if isRead c.word then busRead s (busAddr c.word) else 0x00, host := h }
      else if s.phase = .run then
        runStep { s with rdata := if isRead c.word then busRead s (busAddr c.word) else 0x00, host := h }
      else if busSel c.word && busWe c.word then
        .next { busWrite s (busAddr c.word) (busWdata c.word) with rdata := 0x00, host := h }
      else
        .next { s with rdata := if isRead c.word then busRead s (busAddr c.word) else 0x00, host := h }

/-- 93_implementation_defined.md U9: a RUN fetch at a UPC above 50 faults. -/
def Obligations.FetchAboveTheProgramFaults : Prop :=
  ∀ (s : State) (c : HostCycle) (h : List HostCycle),
    s.host = c :: h → c.rst = false → s.phase = .run → 50 < s.upc.toNat → step s = .fault (.noRomWord s.upc)

/-- Log 8, the model's choice of how a word comes to be the next one run: a placed bus word is run by the next step in IDLE, a
placed micro-op word in RUN at a place of ROM. -/
def Obligations.PlacedWordRunsNext : Prop :=
  (∀ (s : State) (w : BusWord),
    step (placeBus s w) = exec (decodeBus w) { s with phase := .idle }) ∧
  (∀ (s : State) (w : UopWord) (i : Instr), decodeUop w = .ok i →
    ∃ (m : Mode) (n : BitVec 6), progWord m n = some w ∧
      step (placeUop s w) = exec i { s with phase := .run, modeR := m, upc := n, rdata := 0x00 })

/-! ### Host writes -/

/-- 45_host_interface.md section 2, the key push: while IDLE it stores byte KEY_CNT of `SCHED[0]` and counts, saturating at 17;
in RUN it is ignored; nothing else changes. -/
def Obligations.KeyPushStoresOneByteAndCounts : Prop :=
  ∀ (s : State) (d : Byte),
    decodeBus (mkBusWord true true 0x04 d) = .wrKeyData d ∧
    (s.phase = .idle → ∃ t, exec (.wrKeyData d) s = .next t ∧
      (∀ j : Fin 16, t.sched[0][j] = if j.val = s.keyCnt.toNat then d else s.sched[0][j]) ∧
      (∀ k : Fin 11, k ≠ 0 → t.sched[k] = s.sched[k]) ∧
      t.keyCnt.toNat = min (s.keyCnt.toNat + 1) 17 ∧
      t = { s with sched := t.sched, keyCnt := t.keyCnt, rdata := 0x00 }) ∧
    (s.phase = .run → exec (.wrKeyData d) s = .next { s with rdata := 0x00 })

/-- 45_host_interface.md section 2, the block push: while IDLE it stores byte DIN_CNT of `STATE` and counts, saturating at 17;
in RUN it is ignored; nothing else changes, DOUT included. -/
def Obligations.BlockPushStoresOneByteAndCounts : Prop :=
  ∀ (s : State) (d : Byte),
    decodeBus (mkBusWord true true 0x05 d) = .wrDinData d ∧
    (s.phase = .idle → ∃ t, exec (.wrDinData d) s = .next t ∧
      (∀ j : Fin 16, t.state[j] = if j.val = s.dinCnt.toNat then d else s.state[j]) ∧
      t.dinCnt.toNat = min (s.dinCnt.toNat + 1) 17 ∧
      t = { s with state := t.state, dinCnt := t.dinCnt, rdata := 0x00 }) ∧
    (s.phase = .run → exec (.wrDinData d) s = .next { s with rdata := 0x00 })

/-- R184, R187, R192, R194, R195 and the write half of R193: these cycles change nothing in any phase, whatever their ignored
bits; no flag, no count, no byte a read can see. -/
def Obligations.CyclesWithoutEffect : Prop :=
  ∀ s : State,
    (∀ x, exec (.busIdle x) s = .next { s with rdata := 0x00 }) ∧
    (∀ x, exec (.wrCtrlNop x) s = .next { s with rdata := 0x00 }) ∧
    (∀ x, exec (.wrStatus x) s = .next { s with rdata := 0x00 }) ∧
    (∀ a x, exec (.wrCount a x) s = .next { s with rdata := 0x00 }) ∧
    (∀ k x, exec (.wrDout k x) s = .next { s with rdata := 0x00 }) ∧
    (∀ a x, exec (.wrRsvd06 a x) s = .next { s with rdata := 0x00 }) ∧
    (∀ a x, exec (.wrRsvd08 a x) s = .next { s with rdata := 0x00 })

/-- R195: every write to 0x06..0x0F decodes to one of the two reserved-write operations and changes nothing. -/
def Obligations.ReservedAddressWritesAreIgnored : Prop :=
  ∀ (s : State) (a : BusAddr) (d : Byte), 0x06 ≤ a → a ≤ 0x0F →
    ((∃ b, decodeBus (mkBusWord true true a d) = .wrRsvd06 b d) ∨
      (∃ b, decodeBus (mkBusWord true true a d) = .wrRsvd08 b d)) ∧
    exec (decodeBus (mkBusWord true true a d)) s = .next { s with rdata := 0x00 }

/-! ### START -/

/-- R212: the check of a START write, in its priority. -/
def Obligations.StartCheckPriority : Prop :=
  ∀ (s : State) (mode : BitVec 2),
    (s.keyCnt ≠ 16 → startCheck s mode = .invalidKeyLength) ∧
    (s.keyCnt = 16 → s.dinCnt ≠ 16 → startCheck s mode = .invalidBlockLength) ∧
    (s.keyCnt = 16 → s.dinCnt = 16 → mode.getLsbD 1 = true → startCheck s mode = .invalidMode) ∧
    (s.keyCnt = 16 → s.dinCnt = 16 → mode.getLsbD 1 = false → startCheck s mode = .none) ∧
    (ErrCode.invalidKeyLength.bits = 1 ∧ ErrCode.invalidBlockLength.bits = 2 ∧ ErrCode.invalidMode.bits = 3 ∧
      ErrCode.none.bits = 0)

/-- R191: what a START write does in IDLE, for each of the three START operations with the mode it carries: the counts and DONE
are cleared, ERR takes the code of the check, and MODE_R, PHASE and UPC are written only if the code is 0. -/
def Obligations.StartSharedSemantics : Prop :=
  ∀ (s : State) (i : Instr) (mode : BitVec 2), s.phase = .idle →
    ((∃ x, i = .startEnc x) ∧ mode = 0b00 ∨ (∃ x, i = .startDec x) ∧ mode = 0b01 ∨
      (∃ x, i = .startBadmode x 0) ∧ mode = 0b10 ∨ (∃ x, i = .startBadmode x 1) ∧ mode = 0b11) →
    ∃ t, exec i s = .next t ∧
      t = { s with
        keyCnt := 0, dinCnt := 0, done := false, err := startCheck s mode, rdata := 0x00
        modeR := t.modeR, phase := t.phase, upc := t.upc } ∧
      (startCheck s mode = .none →
        t.modeR = (if mode.getLsbD 0 then .decrypt else .encrypt) ∧ t.phase = .run ∧ t.upc = 0) ∧
      (startCheck s mode ≠ .none → t.modeR = s.modeR ∧ t.phase = s.phase ∧ t.upc = s.upc)

/-- 45_host_interface.md section 2, START_ENC and START_DEC: with 16 key bytes and 16 block bytes pushed the call is accepted,
and everything but the named elements keeps its value, STATE, SCHED and DOUT included. -/
def Obligations.StartWithAFullLoadIsAccepted : Prop :=
  ∀ (s : State) (x : BitVec 5), s.phase = .idle → s.keyCnt = 16 → s.dinCnt = 16 →
    exec (.startEnc x) s = .next { s with
      keyCnt := 0, dinCnt := 0, done := false, err := .none
      modeR := .encrypt, phase := .run, upc := 0, rdata := 0x00 } ∧
    exec (.startDec x) s = .next { s with
      keyCnt := 0, dinCnt := 0, done := false, err := .none
      modeR := .decrypt, phase := .run, upc := 0, rdata := 0x00 }

/-- 45_host_interface.md section 2, START_BADMODE: in IDLE it is always rejected, with a code in 1, 2, 3. -/
def Obligations.StartWithABadModeIsRejected : Prop :=
  ∀ (s : State) (x : BitVec 5) (m : BitVec 1), s.phase = .idle →
    ∃ t, exec (.startBadmode x m) s = .next t ∧
      t = { s with keyCnt := 0, dinCnt := 0, done := false, err := t.err, rdata := 0x00 } ∧
      (s.keyCnt ≠ 16 → t.err = .invalidKeyLength) ∧
      (s.keyCnt = 16 → s.dinCnt ≠ 16 → t.err = .invalidBlockLength) ∧
      (s.keyCnt = 16 → s.dinCnt = 16 → t.err = .invalidMode)

/-- R213: a rejected START makes exactly the four updates of the rule; it saves nothing and transfers no control. -/
def Obligations.RejectedStartUpdatesExactlyFour : Prop :=
  ∀ (s : State) (w : BusWord), s.phase = .idle → isStart w = true →
    startCheck s (ctrlMode (busWdata w)) ≠ .none →
      exec (decodeBus w) s = .next { s with
        err := startCheck s (ctrlMode (busWdata w)), done := false, keyCnt := 0, dinCnt := 0, rdata := 0x00 }

/-- 45_host_interface.md section 3 and 60_exceptions.md section 1: after `nk` key pushes and `nd` block pushes since the counts
were 0, in any order, a START write records the code the lengths and the mode call for, and otherwise enters RUN. -/
def Obligations.StartReportsTheLengthsPushed : Prop :=
  ∀ (s : State) (load : List HostCycle) (c : HostCycle) (h : List HostCycle),
    s.phase = .idle → s.keyCnt = 0 → s.dinCnt = 0 → s.host = load ++ c :: h → loading load →
    c.rst = false → isStart c.word = true →
    ∃ t, Host.Core.run Sys2Proof.core (load.length + 1) s = .next t ∧
      t.keyCnt = 0 ∧ t.dinCnt = 0 ∧ t.done = false ∧ t.dout = s.dout ∧
      t.err = (if (writtenTo 0x04 load).length ≠ 16 then .invalidKeyLength
        else if (writtenTo 0x05 load).length ≠ 16 then .invalidBlockLength
        else if (ctrlMode (busWdata c.word)).getLsbD 1 then .invalidMode else .none) ∧
      (t.phase = .run ↔ t.err = .none)

/-! ### Host reads -/

/-- R196 to R201: every read answers the value its rule gives, in every phase, and changes no state; `wdata` is ignored. -/
def Obligations.ReadsAnswerAndChangeNothing : Prop :=
  ∀ (s : State) (x : Byte),
    exec (.rdCtrl x) s = .next { s with rdata := 0x00 } ∧
    exec (.rdKeyData x) s = .next { s with rdata := 0x00 } ∧
    exec (.rdDinData x) s = .next { s with rdata := 0x00 } ∧
    (∀ a, exec (.rdRsvd06 a x) s = .next { s with rdata := 0x00 }) ∧
    (∀ a, exec (.rdRsvd08 a x) s = .next { s with rdata := 0x00 }) ∧
    exec (.rdStatus x) s = .next { s with rdata := statusByte s } ∧
    exec (.rdKeyCount x) s = .next { s with rdata := 0b000#3 ++ s.keyCnt } ∧
    exec (.rdDinCount x) s = .next { s with rdata := 0b000#3 ++ s.dinCnt } ∧
    (∀ i : Fin 16, exec (.rdDout (BitVec.ofNat 4 i.val) x) s = .next { s with rdata := s.dout[i] })

/-- R34: the bits of STATUS. -/
def Obligations.StatusBits : Prop :=
  ∀ s : State,
    (statusByte s).getLsbD 0 = decide (s.phase = .run) ∧
    (statusByte s).getLsbD 1 = s.done ∧
    (statusByte s).extractLsb' 2 2 = s.err.bits ∧
    (statusByte s).extractLsb' 4 4 = 0

/-- 45_host_interface.md section 2, RD_STATUS: in a state that meets R31, STATUS is one of six values. -/
def Obligations.StatusTakesSixValues : Prop :=
  ∀ s : State, Inv s → statusByte s = 0x00 ∨ statusByte s = 0x01 ∨ statusByte s = 0x02 ∨ statusByte s = 0x04 ∨
    statusByte s = 0x08 ∨ statusByte s = 0x0C

/-- R182: `BusRead` at each of the 32 addresses; a read in any phase answers it and has no side effect. -/
def Obligations.BusReadByAddress : Prop :=
  ∀ s : State,
    busRead s 0x00 = 0x00 ∧ busRead s 0x04 = 0x00 ∧ busRead s 0x05 = 0x00 ∧
    busRead s 0x01 = 0b0000#4 ++ s.err.bits ++ BitVec.ofBool s.done ++ BitVec.ofBool (decide (s.phase = .run)) ∧
    busRead s 0x02 = 0b000#3 ++ s.keyCnt ∧ busRead s 0x03 = 0b000#3 ++ s.dinCnt ∧
    (∀ a : BusAddr, 0x06 ≤ a → a ≤ 0x0F → busRead s a = 0x00) ∧
    (∀ i : Fin 16, busRead s (BitVec.ofNat 5 (0x10 + i.val)) = s.dout[i]) ∧
    (∀ (a : BusAddr) (d : Byte), exec (decodeBus (mkBusWord true false a d)) s = .next { s with rdata := busRead s a })

/-! ### Micro-ops -/

/-- R141: SB substitutes each byte by SBOX and changes nothing else but UPC; no byte maps to itself. -/
def Obligations.SubBytesMicroOp : Prop :=
  decodeUop 0x30 = .ok .sb ∧
  ∀ s : State, ∃ t, exec .sb s = .next t ∧
    (∀ i : Fin 16, t.state[i] = sbox s.state[i] ∧ t.state[i] ≠ s.state[i]) ∧ sbox 0x00 = 0x63 ∧
    t = { s with state := t.state, upc := s.upc + 1 }

/-- R142: ISB substitutes each byte by INV_SBOX and changes nothing else but UPC; after SB it restores the block. -/
def Obligations.InvSubBytesMicroOp : Prop :=
  decodeUop 0x40 = .ok .isb ∧
  (∀ s : State, ∃ t, exec .isb s = .next t ∧
    (∀ i : Fin 16, t.state[i] = invSbox s.state[i]) ∧ t = { s with state := t.state, upc := s.upc + 1 }) ∧
  (∀ s : State, ∃ t u, exec .sb s = .next t ∧ exec .isb t = .next u ∧ u.state = s.state)

/-- R143: SR moves the byte at column (c + r) mod 4 of row r to column c, as the rule's permutation, and changes nothing else
but UPC. -/
def Obligations.ShiftRowsMicroOp : Prop :=
  decodeUop 0x50 = .ok .sr ∧
  ∀ s : State, ∃ t, exec .sr s = .next t ∧
    (∀ r c : Fin 4, cell t.state r c = cell s.state r (c + r)) ∧
    t.state = #v[s.state[0], s.state[5], s.state[10], s.state[15], s.state[4], s.state[9], s.state[14], s.state[3],
      s.state[8], s.state[13], s.state[2], s.state[7], s.state[12], s.state[1], s.state[6], s.state[11]] ∧
    t = { s with state := t.state, upc := s.upc + 1 }

/-- R144: ISR moves the byte at column (c - r) mod 4 of row r to column c, as the rule's permutation, and changes nothing else
but UPC; after SR it restores the block. -/
def Obligations.InvShiftRowsMicroOp : Prop :=
  decodeUop 0x60 = .ok .isr ∧
  (∀ s : State, ∃ t, exec .isr s = .next t ∧
    (∀ r c : Fin 4, cell t.state r c = cell s.state r (c - r)) ∧
    t.state = #v[s.state[0], s.state[13], s.state[10], s.state[7], s.state[4], s.state[1], s.state[14], s.state[11],
      s.state[8], s.state[5], s.state[2], s.state[15], s.state[12], s.state[9], s.state[6], s.state[3]] ∧
    t = { s with state := t.state, upc := s.upc + 1 }) ∧
  (∀ s : State, ∃ t u, exec .sr s = .next t ∧ exec .isr t = .next u ∧ u.state = s.state)

/-- R145: MC multiplies each column by M over GF(2^8) and changes nothing else but UPC; a column of four equal bytes, the zero
column among them, is a fixed point. -/
def Obligations.MixColumnsMicroOp : Prop :=
  decodeUop 0x70 = .ok .mc ∧
  ∀ s : State, ∃ t, exec .mc s = .next t ∧
    (∀ c : Fin 4,
      cell t.state 0 c = gfMultiply 2 (cell s.state 0 c) ^^^ gfMultiply 3 (cell s.state 1 c) ^^^
        gfMultiply 1 (cell s.state 2 c) ^^^ gfMultiply 1 (cell s.state 3 c) ∧
      cell t.state 1 c = gfMultiply 1 (cell s.state 0 c) ^^^ gfMultiply 2 (cell s.state 1 c) ^^^
        gfMultiply 3 (cell s.state 2 c) ^^^ gfMultiply 1 (cell s.state 3 c) ∧
      cell t.state 2 c = gfMultiply 1 (cell s.state 0 c) ^^^ gfMultiply 1 (cell s.state 1 c) ^^^
        gfMultiply 2 (cell s.state 2 c) ^^^ gfMultiply 3 (cell s.state 3 c) ∧
      cell t.state 3 c = gfMultiply 3 (cell s.state 0 c) ^^^ gfMultiply 1 (cell s.state 1 c) ^^^
        gfMultiply 1 (cell s.state 2 c) ^^^ gfMultiply 2 (cell s.state 3 c)) ∧
    (∀ (c : Fin 4) (b : Byte), (∀ r : Fin 4, cell s.state r c = b) → ∀ r : Fin 4, cell t.state r c = b) ∧
    t = { s with state := t.state, upc := s.upc + 1 }

/-- R146: IMC multiplies each column by M' over GF(2^8) and changes nothing else but UPC; a column of four equal bytes is a
fixed point, and after MC it restores every block. -/
def Obligations.InvMixColumnsMicroOp : Prop :=
  decodeUop 0x80 = .ok .imc ∧
  (∀ s : State, ∃ t, exec .imc s = .next t ∧
    (∀ c : Fin 4,
      cell t.state 0 c = gfMultiply 14 (cell s.state 0 c) ^^^ gfMultiply 11 (cell s.state 1 c) ^^^
        gfMultiply 13 (cell s.state 2 c) ^^^ gfMultiply 9 (cell s.state 3 c) ∧
      cell t.state 1 c = gfMultiply 9 (cell s.state 0 c) ^^^ gfMultiply 14 (cell s.state 1 c) ^^^
        gfMultiply 11 (cell s.state 2 c) ^^^ gfMultiply 13 (cell s.state 3 c) ∧
      cell t.state 2 c = gfMultiply 13 (cell s.state 0 c) ^^^ gfMultiply 9 (cell s.state 1 c) ^^^
        gfMultiply 14 (cell s.state 2 c) ^^^ gfMultiply 11 (cell s.state 3 c) ∧
      cell t.state 3 c = gfMultiply 11 (cell s.state 0 c) ^^^ gfMultiply 13 (cell s.state 1 c) ^^^
        gfMultiply 9 (cell s.state 2 c) ^^^ gfMultiply 14 (cell s.state 3 c)) ∧
    (∀ (c : Fin 4) (b : Byte), (∀ r : Fin 4, cell s.state r c = b) → ∀ r : Fin 4, cell t.state r c = b) ∧
    t = { s with state := t.state, upc := s.upc + 1 }) ∧
  (∀ s : State, ∃ t u, exec .mc s = .next t ∧ exec .imc t = .next u ∧ u.state = s.state)

/-- R147, but for its remark on when a call reads `SCHED[r]`: ARK r XORs round key r into STATE and changes nothing else but
UPC; twice with the same r it restores the block. -/
def Obligations.AddRoundKeyMicroOp : Prop :=
  ∀ (s : State) (r : Fin 11),
    decodeUop (BitVec.ofNat 8 (0x20 + r.val)) = .ok (.ark (BitVec.ofNat 4 r.val)) ∧
    ∃ t u, exec (.ark (BitVec.ofNat 4 r.val)) s = .next t ∧
      (∀ i : Fin 16, t.state[i] = s.state[i] ^^^ s.sched[r][i]) ∧
      t = { s with state := t.state, upc := s.upc + 1 } ∧
      exec (.ark (BitVec.ofNat 4 r.val)) t = .next u ∧ u.state = s.state

/-- 42_key_expansion.md section 2: KEYEXP k writes ExpandRound of `SCHED[k-1]` to `SCHED[k]`, whose bytes are spelled out with
SBOX and the round constants of 40_constant_tables.md section 3, and changes nothing else but UPC. -/
def Obligations.KeyExpansionMicroOp : Prop :=
  ∀ (s : State) (j : Fin 10),
    decodeUop (BitVec.ofNat 8 (0x11 + j.val)) = .ok (.keyexp (BitVec.ofNat 4 (j.val + 1))) ∧
    ∃ t, exec (.keyexp (BitVec.ofNat 4 (j.val + 1))) s = .next t ∧
      t.sched[j.succ] = expandRound s.sched[j.castSucc] (j.val + 1) ∧
      nextRoundKey (#v[0x01, 0x02, 0x04, 0x08, 0x10, 0x20, 0x40, 0x80, 0x1b, 0x36] : Vector Byte 10)[j]
        s.sched[j.castSucc] t.sched[j.succ] ∧
      (∀ k : Fin 11, k ≠ j.succ → t.sched[k] = s.sched[k]) ∧
      t = { s with sched := t.sched, upc := s.upc + 1 }

/-- 44_orchestrator.md section 3, OUT: DOUT takes STATE, DONE becomes 1, PHASE IDLE; UPC and ERR keep their values. -/
def Obligations.OutMicroOp : Prop :=
  decodeUop 0x90 = .ok .out ∧
  ∀ s : State, exec .out s = .next { s with dout := s.state, done := true, phase := .idle }

/-- R140: no round micro-op and no KEYEXP changes what any bus read returns. -/
def Obligations.RoundMicroOpsAreInvisibleOnTheBus : Prop :=
  ∀ (i : Instr) (s t : State), i.format = .uop → i ≠ .out → exec i s = .next t →
    ∀ a : BusAddr, busRead t a = busRead s a

/-! ### Tables and arithmetic -/

/-- R104: the two substitution boxes are inverse permutations, and SBOX has no fixed point. -/
def Obligations.SubstitutionBoxesAreInverse : Prop :=
  ∀ x : Byte, invSbox (sbox x) = x ∧ sbox (invSbox x) = x ∧ sbox x ≠ x

/-- 40_constant_tables.md section 1, the equivalent construction: SBOX is the affine map of the field inverse. -/
def Obligations.SboxIsTheAffineMapOfTheInverse : Prop :=
  sbox 0 = affine 0 ∧ ∀ b c : Byte, gfMultiply b c = 1 → sbox b = affine c

/-- The polynomial over GF(2) whose coefficient of x^k is bit k of the byte. -/
noncomputable def Sys2Proof.Machine.bytePoly (a : Byte) : Polynomial (ZMod 2) :=
  ∑ k ∈ Finset.range 8, if a.getLsbD k then Polynomial.X ^ k else 0

/-- x^8 + x^4 + x^3 + x + 1, that is 0x11B (R8, R120). -/
noncomputable def Sys2Proof.Machine.fieldPoly : Polynomial (ZMod 2) :=
  Polynomial.X ^ 8 + Polynomial.X ^ 4 + Polynomial.X ^ 3 + Polynomial.X + 1

/-- R120: gfMultiply is multiplication of polynomials over GF(2), reduced modulo x^8+x^4+x^3+x+1. -/
def Obligations.GfMultiplyIsFieldMultiplication : Prop :=
  ∀ a b : Byte, fieldPoly ∣ bytePoly a * bytePoly b - bytePoly (gfMultiply a b)

/-- R121: xtime doubles, reduces when bit 7 is shifted out, and multiplies by 0x02 in the field. -/
def Obligations.XtimeReducesOnOverflow : Prop :=
  ∀ a : Byte, xtime a = BitVec.ofNat 8 (2 * a.toNat) ^^^ (if 0x80 ≤ a.toNat then 0x1B else 0x00) ∧
    xtime a = gfMultiply a 0x02

/-- R123: the laws of gfMultiply, and its corner case of two equal operands. -/
def Obligations.GfMultiplyLaws : Prop :=
  (∀ a b : Byte, gfMultiply a b = gfMultiply b a) ∧
  (∀ a : Byte, gfMultiply a 0 = 0) ∧
  (∀ a : Byte, gfMultiply a 1 = a) ∧
  (∀ a b c : Byte, gfMultiply a (b ^^^ c) = gfMultiply a b ^^^ gfMultiply a c) ∧
  (∀ a b c : Byte, gfMultiply (gfMultiply a b) c = gfMultiply a (gfMultiply b c)) ∧
  (∀ a : Byte, a ≠ 0 → ∃! b : Byte, gfMultiply a b = 1) ∧
  gfMultiply 0xff 0xff = 0x13

/-- R131: the word loop of R130, four words at a time, is ExpandRound, whose bytes are spelled out with SBOX and RCON[1..10];
and the first round key is the key itself. -/
def Obligations.ScheduleByRounds : Prop :=
  ∀ key : Block, roundKey key 0 = key ∧
    ∀ j : Fin 10, roundKey key (j.val + 1) = expandRound (roundKey key j.val) (j.val + 1) ∧
      nextRoundKey (#v[0x01, 0x02, 0x04, 0x08, 0x10, 0x20, 0x40, 0x80, 0x1b, 0x36] : Vector Byte 10)[j]
        (roundKey key j.val) (roundKey key (j.val + 1))

/-- R148: each inverse transform undoes its transform on every block, and AddRoundKey undoes itself. -/
def Obligations.InverseTransformsUndo : Prop :=
  ∀ b k : Block, invSubBytes (subBytes b) = b ∧ invShiftRows (shiftRows b) = b ∧ invMixColumns (mixColumns b) = b ∧
    addRoundKey k (addRoundKey k b) = b

/-- 44_orchestrator.md section 4: decrypting an encrypted block under the same key gives the block back, and the other way
round. -/
def Obligations.DecryptUndoesEncrypt : Prop :=
  ∀ key p : Block, aesDecrypt key (aesEncrypt key p) = p ∧ aesEncrypt key (aesDecrypt key p) = p

/-! ### The micro-programs -/

/-- 44_orchestrator.md section 2 and R134: both programs begin with KEYEXP 1..10, hold no KEYEXP later, no ARK before UPC 10,
and OUT at UPC 50 only; the round words stand where the tables put them. -/
def Obligations.MicroProgramListing : Prop :=
  (∀ (m : Mode) (n : Fin 10), decodeUop (prog m)[n.val] = .ok (.keyexp (BitVec.ofNat 4 (n.val + 1)))) ∧
  (∀ (m : Mode) (n : Fin 51), 10 ≤ n.val → uopOpc (prog m)[n] ≠ 0x1) ∧
  (∀ (m : Mode) (n : Fin 51), (prog m)[n] = 0x90 ↔ n.val = 50) ∧
  decodeUop ENC_PROG[10] = .ok (.ark 0) ∧ decodeUop DEC_PROG[10] = .ok (.ark 10) ∧
  (∀ j : Fin 9,
    decodeUop ENC_PROG[11 + 4 * j.val] = .ok .sb ∧ decodeUop ENC_PROG[12 + 4 * j.val] = .ok .sr ∧
    decodeUop ENC_PROG[13 + 4 * j.val] = .ok .mc ∧
    decodeUop ENC_PROG[14 + 4 * j.val] = .ok (.ark (BitVec.ofNat 4 (j.val + 1))) ∧
    decodeUop DEC_PROG[11 + 4 * j.val] = .ok .isr ∧ decodeUop DEC_PROG[12 + 4 * j.val] = .ok .isb ∧
    decodeUop DEC_PROG[13 + 4 * j.val] = .ok (.ark (BitVec.ofNat 4 (9 - j.val))) ∧
    decodeUop DEC_PROG[14 + 4 * j.val] = .ok .imc) ∧
  decodeUop ENC_PROG[47] = .ok .sb ∧ decodeUop ENC_PROG[48] = .ok .sr ∧ decodeUop ENC_PROG[49] = .ok (.ark 10) ∧
  decodeUop DEC_PROG[47] = .ok .isr ∧ decodeUop DEC_PROG[48] = .ok .isb ∧ decodeUop DEC_PROG[49] = .ok (.ark 0)

/-! ### The whole machine -/

/-- 10_state.md R31: the invariant holds after reset. -/
def Obligations.ResetMeetsTheInvariant : Prop := Inv State.reset

/-- 70_reset_and_hazards.md section 1: from any power-up state, one reset edge establishes the invariant of R31. -/
def Obligations.ResetEdgeEstablishesTheInvariant : Prop :=
  ∀ (s t : State) (c : HostCycle) (h : List HostCycle),
    s.host = c :: h → c.rst = true → step s = .next t → Inv t

/-- 10_state.md R31: every edge keeps the invariant, whatever the host drives. -/
def Obligations.StepKeepsTheInvariant : Prop :=
  ∀ s t : State, Inv s → step s = .next t → Inv t

/-- 60_exceptions.md section 2: no run from a state that meets R31 ever stops, however long and whatever the host drives. -/
def Obligations.NoRunFromTheInvariantStops : Prop :=
  ∀ (s : State) (n : Nat), Inv s → ∃ t, Host.Core.run Sys2Proof.core n s = .next t ∧ Inv t

/-- R170: the transitions of PHASE and UPC, complete. -/
def Obligations.PhaseTransitions : Prop :=
  ∀ (s t : State) (c : HostCycle) (h : List HostCycle), s.host = c :: h → step s = .next t →
    (c.rst = true → t = { State.reset with rdata := t.rdata, host := h }) ∧
    (c.rst = false → s.phase = .idle → isStart c.word = false → t.phase = .idle ∧ t.upc = s.upc ∧ t.err = s.err) ∧
    (c.rst = false → s.phase = .idle → isStart c.word = true →
      startCheck s (ctrlMode (busWdata c.word)) = .none → t.phase = .run ∧ t.upc = 0) ∧
    (c.rst = false → s.phase = .idle → isStart c.word = true →
      startCheck s (ctrlMode (busWdata c.word)) ≠ .none → t.phase = .idle ∧ t.err ≠ .none) ∧
    (c.rst = false → s.phase = .run → s.upc.toNat < 50 → t.phase = .run ∧ t.upc = s.upc + 1) ∧
    (c.rst = false → s.phase = .run → s.upc = 50 → t.phase = .idle ∧ t.done = true ∧ t.upc = 50)

/-- R203: in RUN the step is the same whatever the host writes, a push or a START among them, as if the cycle carried nothing;
and a read changes the value on `rdata` only. -/
def Obligations.HostWritesAreIgnoredInRun : Prop :=
  ∀ (s : State) (w : BusWord) (h : List HostCycle), s.phase = .run →
    (isRead w = false →
      step { s with host := { rst := false, word := w } :: h } = step { s with host := { rst := false, word := 0 } :: h }) ∧
    (∀ t, step { s with host := { rst := false, word := w } :: h } = .next t →
      step { s with host := { rst := false, word := 0 } :: h } = .next { t with rdata := 0x00 })

/-- 10_state.md R22 and 60_exceptions.md section 2: DOUT changes only at OUT, where it takes STATE and DONE becomes 1, and at
reset. -/
def Obligations.DoutChangesOnlyAtOutAndReset : Prop :=
  ∀ (s t : State) (c : HostCycle) (h : List HostCycle),
    s.host = c :: h → step s = .next t → t.dout ≠ s.dout →
      c.rst = true ∨
        (s.phase = .run ∧ progWord s.modeR s.upc = some 0x90 ∧ t.dout = s.state ∧ t.done = true ∧ t.phase = .idle)

/-- 60_exceptions.md section 3 and 10_state.md R27: ERR changes, DONE is cleared and a count falls only at a START write in
IDLE or at reset; DONE is set only at OUT. -/
def Obligations.FlagsAndCountsClearOnlyAtStartOrReset : Prop :=
  ∀ (s t : State) (c : HostCycle) (h : List HostCycle),
    s.host = c :: h → step s = .next t → s.keyCnt.toNat ≤ 17 → s.dinCnt.toNat ≤ 17 →
      ((t.err ≠ s.err ∨ (s.done = true ∧ t.done = false) ∨ t.keyCnt.toNat < s.keyCnt.toNat ∨
          t.dinCnt.toNat < s.dinCnt.toNat) →
        c.rst = true ∨ (s.phase = .idle ∧ isStart c.word = true)) ∧
      (s.done = false → t.done = true → s.phase = .run ∧ progWord s.modeR s.upc = some 0x90)

/-- 70_reset_and_hazards.md section 3: every START write in IDLE clears both counts, and a count at 17 stays until a START write
or reset. -/
def Obligations.LoadsAreNotKept : Prop :=
  ∀ (s t : State) (c : HostCycle) (h : List HostCycle),
    s.host = c :: h → c.rst = false → s.phase = .idle → step s = .next t →
      (isStart c.word = true → t.keyCnt = 0 ∧ t.dinCnt = 0) ∧
      (isStart c.word = false → s.keyCnt = 17 → t.keyCnt = 17) ∧
      (isStart c.word = false → s.dinCnt = 17 → t.dinCnt = 17)

/-- 42_key_expansion.md section 3: in RUN no edge but reset writes `SCHED[0]`, and from UPC 10 on none writes `SCHED` at all. -/
def Obligations.ScheduleIsReadOnlyInRounds : Prop :=
  ∀ (s t : State) (c : HostCycle) (h : List HostCycle),
    s.host = c :: h → c.rst = false → s.phase = .run → step s = .next t →
      t.sched[0] = s.sched[0] ∧ (10 ≤ s.upc.toNat → t.sched = s.sched)

/-- R168: without a reset, an accepted call is in RUN at UPC n after n edges from its START edge, for n = 0..50, and IDLE with
DONE = 1 after the 51st, whatever the key, the block, the mode and the host's bus words; and with resets too, RUN at a UPC up
to 50 always ends within 51 edges. -/
def Obligations.EveryCallEndsOnTime : Prop :=
  (∀ (s : State) (c : HostCycle) (h : List HostCycle),
    s.phase = .idle → s.host = c :: h → c.rst = false → isStart c.word = true →
    startCheck s (ctrlMode (busWdata c.word)) = .none → noReset (h.take 51) →
    (∀ n : Nat, n < 51 → ∃ t, Host.Core.run Sys2Proof.core (1 + n) s = .next t ∧ t.phase = .run ∧ t.upc.toNat = n) ∧
    ∃ t, Host.Core.run Sys2Proof.core (1 + 51) s = .next t ∧ t.phase = .idle ∧ t.done = true) ∧
  (∀ s : State, s.phase = .run → s.upc.toNat ≤ 50 →
    ∃ (n : Nat) (t : State), n ≤ 51 ∧ Host.Core.run Sys2Proof.core n s = .next t ∧ t.phase = .idle)

/-- 44_orchestrator.md section 4: 51 edges from UPC 0 of RUN, with no reset, compute the cipher of the loaded block under the
loaded key in the direction MODE_R, whatever else the state and the host's bus words are, and leave SCHED the schedule of
the key. -/
def Obligations.RunComputesTheCipher : Prop :=
  ∀ s : State, s.phase = .run → s.upc = 0 → noReset (s.host.take 51) →
    ∃ t, Host.Core.run Sys2Proof.core 51 s = .next t ∧
      t.dout = aes s.modeR s.sched[0] s.state ∧ t.state = t.dout ∧
      (∀ k : Fin 11, t.sched[k] = roundKey s.sched[0] k.val) ∧
      t.phase = .idle ∧ t.done = true ∧ t.err = s.err ∧ t.keyCnt = s.keyCnt ∧ t.dinCnt = s.dinCnt ∧
      t.modeR = s.modeR ∧ t.host = s.host.drop 51

/-- R204: a call's result is AES-128 of the 16 key bytes and 16 block bytes pushed since the counts were 0, in any
interleaving, in the direction of the START write; no other state enters it. -/
def Obligations.CallResultIsAesOfTheBytesPushed : Prop :=
  ∀ (s : State) (key block : Block) (mode : Mode) (load : List HostCycle) (c : HostCycle) (h : List HostCycle),
    s.phase = .idle → s.keyCnt = 0 → s.dinCnt = 0 → s.host = load ++ c :: h → loading load →
    writtenTo 0x04 load = key.toList → writtenTo 0x05 load = block.toList →
    c.rst = false → isStart c.word = true → ctrlMode (busWdata c.word) = modeField mode → noReset (h.take 51) →
    ∃ t, Host.Core.run Sys2Proof.core (load.length + 52) s = .next t ∧
      t.dout = aes mode key block ∧ t.done = true ∧ t.err = .none ∧ t.phase = .idle ∧ t.modeR = mode ∧
      t.host = h.drop 51

/-- 10_state.md section 6: what earlier calls left in `STATE`, `SCHED`, `MODE_R` and `UPC` never reaches the host. Two states
that agree on what a host can see, and on the host's coming cycles, answer the same on `rdata` and stay so. -/
def Obligations.HiddenStateNeverReachesTheHost : Prop :=
  ∀ s₁ s₂ : State, SameView s₁ s₂ →
    (∃ t₁ t₂, step s₁ = .next t₁ ∧ step s₂ = .next t₂ ∧ SameView t₁ t₂ ∧ t₁.rdata = t₂.rdata) ∨
      ∃ f, step s₁ = .fault f ∧ step s₂ = .fault f
end

