-- ==== Sys2Proof/Laws/Block.lean ====
section
/-! SUPPORT. Bytes, cells and words of blocks, and the transforms byte by byte. -/

namespace Sys2Proof.Machine

/-- Two blocks are equal if their 16 bytes are. -/
theorem block_ext {a b : Block} (h : ∀ i : Fin 16, a[i] = b[i]) : a = b :=
  Vector.ext fun i hi => h ⟨i, hi⟩

/-- Two blocks are equal if their 16 cells are (R11). -/
theorem block_ext_cell {a b : Block} (h : ∀ r c : Fin 4, cell a r c = cell b r c) : a = b :=
  Vector.ext fun i hi => by
    have := h ⟨i % 4, Nat.mod_lt _ (by decide)⟩ ⟨i / 4, by omega⟩
    simpa only [cell, Nat.mod_add_div] using this

@[simp] theorem cell_ofCells (f : Fin 4 → Fin 4 → Byte) (r c : Fin 4) : cell (ofCells f) r c = f r c := by
  have hr := r.isLt
  have hc := c.isLt
  simp only [cell, ofCells, Vector.getElem_ofFn]
  congr 1
  · exact Fin.ext (by show (r.val + 4 * c.val) % 4 = r.val; omega)
  · exact Fin.ext (by show (r.val + 4 * c.val) / 4 = c.val; omega)

@[simp] theorem ofCells_cell (b : Block) : ofCells (cell b) = b :=
  block_ext_cell fun r c => cell_ofCells _ r c

@[simp] theorem xor_get (a b : Block) (i : Nat) (h : i < 16) : (Block.xor a b)[i] = a[i] ^^^ b[i] := by
  simp [Block.xor]

@[simp] theorem wordXor_get (a b : KeyWord) (i : Nat) (h : i < 4) : (KeyWord.xor a b)[i] = a[i] ^^^ b[i] := by
  simp [KeyWord.xor]

@[simp] theorem addRoundKey_get (k s : Block) (i : Nat) (h : i < 16) : (addRoundKey k s)[i] = s[i] ^^^ k[i] := by
  simp [addRoundKey]

@[simp] theorem subBytes_get (s : Block) (i : Nat) (h : i < 16) : (subBytes s)[i] = sbox s[i] := by
  simp [subBytes]

@[simp] theorem invSubBytes_get (s : Block) (i : Nat) (h : i < 16) : (invSubBytes s)[i] = invSbox s[i] := by
  simp [invSubBytes]

@[simp] theorem cell_shiftRows (s : Block) (r c : Fin 4) : cell (shiftRows s) r c = cell s r (c + r) :=
  cell_ofCells _ r c

@[simp] theorem cell_invShiftRows (s : Block) (r c : Fin 4) : cell (invShiftRows s) r c = cell s r (c - r) :=
  cell_ofCells _ r c

/-- A coefficient of a column matrix, by its place in row 0 (R145, R146). -/
@[simp] theorem circulant_get (a : KeyWord) (r j : Fin 4) : circulant a r j = a[(j - r).val] := rfl

theorem cell_mulColumns (a : KeyWord) (s : Block) (r c : Fin 4) :
    cell (mulColumns a s) r c =
      gfMultiply (circulant a r 0) (cell s 0 c) ^^^ gfMultiply (circulant a r 1) (cell s 1 c) ^^^
        gfMultiply (circulant a r 2) (cell s 2 c) ^^^ gfMultiply (circulant a r 3) (cell s 3 c) :=
  cell_ofCells _ r c

@[simp] theorem wordOf_get (b : Block) (j : Fin 4) (i : Nat) (h : i < 4) : (wordOf b j)[i] = b[4 * j.val + i] := by
  simp [wordOf]

@[simp] theorem wordOf_ofWords (w : Fin 4 → KeyWord) (j : Fin 4) : wordOf (ofWords w) j = w j := by
  ext i hi
  have hj := j.isLt
  have h1 : (4 * j.val + i) / 4 = j.val := by omega
  have h2 : (4 * j.val + i) % 4 = i := by omega
  simp [ofWords, h1, h2]

@[simp] theorem ofWords_wordOf (b : Block) : ofWords (wordOf b) = b := by
  ext i hi
  simp [ofWords, Nat.div_add_mod]

/-- `xtime` is linear (R121, R122). -/
theorem xtime_xor (a b : Byte) : xtime (a ^^^ b) = xtime a ^^^ xtime b := by
  unfold xtime
  rw [BitVec.shiftLeft_xor_distrib, BitVec.getLsbD_xor]
  have h : ∀ x y c : Byte, x ^^^ y = x ^^^ c ^^^ (y ^^^ c) := fun x y c => by
    rw [BitVec.xor_comm y c, ← BitVec.xor_assoc, BitVec.xor_assoc x c c, BitVec.xor_self, BitVec.xor_zero]
  cases a.getLsbD 7 <;> cases b.getLsbD 7
  · simp
  · simp [BitVec.xor_assoc]
  · simp only [if_true, Bool.false_eq_true, if_false, BitVec.ofNat_eq_ofNat, BitVec.xor_zero, Bool.xor_false]
    rw [BitVec.xor_assoc, BitVec.xor_comm (b <<< 1), ← BitVec.xor_assoc]
  · simpa using h _ _ _

end Sys2Proof.Machine
end

