-- ==== Sys2Proof/Laws/Decode.lean ====
section
/-! SUPPORT. The fields of a built bus word, and what the decoders answer. -/

namespace Sys2Proof

@[simp] theorem busSel_mk (sel we : Bool) (a : BusAddr) (d : Byte) : busSel (mkBusWord sel we a d) = sel := by
  simp only [busSel, mkBusWord, BitVec.getLsbD_append]
  simp

@[simp] theorem busWe_mk (sel we : Bool) (a : BusAddr) (d : Byte) : busWe (mkBusWord sel we a d) = we := by
  simp only [busWe, mkBusWord, BitVec.getLsbD_append]
  simp

@[simp] theorem busWdata_mk (sel we : Bool) (a : BusAddr) (d : Byte) : busWdata (mkBusWord sel we a d) = d := by
  ext i hi
  simp only [busWdata, mkBusWord, BitVec.getElem_extractLsb', BitVec.getLsbD_append]
  simp [hi]

@[simp] theorem busAddr_mk (sel we : Bool) (a : BusAddr) (d : Byte) : busAddr (mkBusWord sel we a d) = a := by
  ext i hi
  simp only [busAddr, mkBusWord, BitVec.getElem_extractLsb', BitVec.getLsbD_append]
  simp [hi]

/-- A bus word is built from its fields (R71). -/
theorem mkBusWord_fields (w : BusWord) : mkBusWord (busSel w) (busWe w) (busAddr w) (busWdata w) = w := by
  ext i hi
  simp only [mkBusWord, busSel, busWe, busAddr, busWdata, BitVec.getElem_eq_testBit_toNat, BitVec.testBit_toNat]
  simp only [BitVec.getLsbD_append, BitVec.getLsbD_extractLsb', BitVec.getLsbD_ofBool]
  by_cases h8 : i < 8
  · simp [h8]
  · by_cases h13 : i - 8 < 5
    · simp [h8, h13, show 8 + (i - 8) = i by omega]
    · have : i = 13 ∨ i = 14 := by omega
      rcases this with rfl | rfl <;> simp

@[simp] theorem decodeBus_write (a : BusAddr) (d : Byte) : decodeBus (mkBusWord true true a d) = decodeWrite a d := by
  simp [decodeBus]

@[simp] theorem decodeBus_read (a : BusAddr) (d : Byte) : decodeBus (mkBusWord true false a d) = decodeRead a d := by
  simp [decodeBus]

/-- What a bus word decodes to, by its fields. -/
theorem decodeBus_cases (w : BusWord) :
    (busSel w = false ∧ decodeBus w = .busIdle (w.extractLsb' 0 14)) ∨
    (busSel w = true ∧ busWe w = true ∧ decodeBus w = decodeWrite (busAddr w) (busWdata w)) ∨
    (busSel w = true ∧ busWe w = false ∧ decodeBus w = decodeRead (busAddr w) (busWdata w)) := by
  unfold decodeBus
  cases busSel w <;> cases busWe w <;> simp

end Sys2Proof
end

