-- ==== Sys2Proof/Laws/State.lean ====
section
/-! SUPPORT. What each update of the state does to each of its fields, all true by rfl, so that no proof unfolds a record
update. -/

namespace Sys2Proof.Machine

/-! ### drive -/

@[simp] theorem drive_state (v : Byte) (s : State) : (drive v s).state = s.state := rfl
@[simp] theorem drive_sched (v : Byte) (s : State) : (drive v s).sched = s.sched := rfl
@[simp] theorem drive_dout (v : Byte) (s : State) : (drive v s).dout = s.dout := rfl
@[simp] theorem drive_keyCnt (v : Byte) (s : State) : (drive v s).keyCnt = s.keyCnt := rfl
@[simp] theorem drive_dinCnt (v : Byte) (s : State) : (drive v s).dinCnt = s.dinCnt := rfl
@[simp] theorem drive_modeR (v : Byte) (s : State) : (drive v s).modeR = s.modeR := rfl
@[simp] theorem drive_phase (v : Byte) (s : State) : (drive v s).phase = s.phase := rfl
@[simp] theorem drive_upc (v : Byte) (s : State) : (drive v s).upc = s.upc := rfl
@[simp] theorem drive_done (v : Byte) (s : State) : (drive v s).done = s.done := rfl
@[simp] theorem drive_err (v : Byte) (s : State) : (drive v s).err = s.err := rfl
@[simp] theorem drive_rdata (v : Byte) (s : State) : (drive v s).rdata = v := rfl
@[simp] theorem drive_host (v : Byte) (s : State) : (drive v s).host = s.host := rfl

/-! ### takeCycle -/

@[simp] theorem takeCycle_state (s : State) : (takeCycle s).state = s.state := rfl
@[simp] theorem takeCycle_sched (s : State) : (takeCycle s).sched = s.sched := rfl
@[simp] theorem takeCycle_dout (s : State) : (takeCycle s).dout = s.dout := rfl
@[simp] theorem takeCycle_keyCnt (s : State) : (takeCycle s).keyCnt = s.keyCnt := rfl
@[simp] theorem takeCycle_dinCnt (s : State) : (takeCycle s).dinCnt = s.dinCnt := rfl
@[simp] theorem takeCycle_modeR (s : State) : (takeCycle s).modeR = s.modeR := rfl
@[simp] theorem takeCycle_phase (s : State) : (takeCycle s).phase = s.phase := rfl
@[simp] theorem takeCycle_upc (s : State) : (takeCycle s).upc = s.upc := rfl
@[simp] theorem takeCycle_done (s : State) : (takeCycle s).done = s.done := rfl
@[simp] theorem takeCycle_err (s : State) : (takeCycle s).err = s.err := rfl
@[simp] theorem takeCycle_rdata (s : State) : (takeCycle s).rdata = s.rdata := rfl
@[simp] theorem takeCycle_host (s : State) : (takeCycle s).host = s.host.tail := rfl

/-! ### pushKey -/

@[simp] theorem pushKey_state (d : Byte) (s : State) : (pushKey d s).state = s.state := rfl
@[simp] theorem pushKey_sched (d : Byte) (s : State) : (pushKey d s).sched = s.sched.set 0 (storePush s.sched[0] s.keyCnt d) := rfl
@[simp] theorem pushKey_dout (d : Byte) (s : State) : (pushKey d s).dout = s.dout := rfl
@[simp] theorem pushKey_keyCnt (d : Byte) (s : State) : (pushKey d s).keyCnt = bumpCount s.keyCnt := rfl
@[simp] theorem pushKey_dinCnt (d : Byte) (s : State) : (pushKey d s).dinCnt = s.dinCnt := rfl
@[simp] theorem pushKey_modeR (d : Byte) (s : State) : (pushKey d s).modeR = s.modeR := rfl
@[simp] theorem pushKey_phase (d : Byte) (s : State) : (pushKey d s).phase = s.phase := rfl
@[simp] theorem pushKey_upc (d : Byte) (s : State) : (pushKey d s).upc = s.upc := rfl
@[simp] theorem pushKey_done (d : Byte) (s : State) : (pushKey d s).done = s.done := rfl
@[simp] theorem pushKey_err (d : Byte) (s : State) : (pushKey d s).err = s.err := rfl
@[simp] theorem pushKey_rdata (d : Byte) (s : State) : (pushKey d s).rdata = s.rdata := rfl
@[simp] theorem pushKey_host (d : Byte) (s : State) : (pushKey d s).host = s.host := rfl

/-! ### pushDin -/

@[simp] theorem pushDin_state (d : Byte) (s : State) : (pushDin d s).state = storePush s.state s.dinCnt d := rfl
@[simp] theorem pushDin_sched (d : Byte) (s : State) : (pushDin d s).sched = s.sched := rfl
@[simp] theorem pushDin_dout (d : Byte) (s : State) : (pushDin d s).dout = s.dout := rfl
@[simp] theorem pushDin_keyCnt (d : Byte) (s : State) : (pushDin d s).keyCnt = s.keyCnt := rfl
@[simp] theorem pushDin_dinCnt (d : Byte) (s : State) : (pushDin d s).dinCnt = bumpCount s.dinCnt := rfl
@[simp] theorem pushDin_modeR (d : Byte) (s : State) : (pushDin d s).modeR = s.modeR := rfl
@[simp] theorem pushDin_phase (d : Byte) (s : State) : (pushDin d s).phase = s.phase := rfl
@[simp] theorem pushDin_upc (d : Byte) (s : State) : (pushDin d s).upc = s.upc := rfl
@[simp] theorem pushDin_done (d : Byte) (s : State) : (pushDin d s).done = s.done := rfl
@[simp] theorem pushDin_err (d : Byte) (s : State) : (pushDin d s).err = s.err := rfl
@[simp] theorem pushDin_rdata (d : Byte) (s : State) : (pushDin d s).rdata = s.rdata := rfl
@[simp] theorem pushDin_host (d : Byte) (s : State) : (pushDin d s).host = s.host := rfl

/-! ### recordError -/

@[simp] theorem recordError_state (e : ErrCode) (s : State) : (recordError e s).state = s.state := rfl
@[simp] theorem recordError_sched (e : ErrCode) (s : State) : (recordError e s).sched = s.sched := rfl
@[simp] theorem recordError_dout (e : ErrCode) (s : State) : (recordError e s).dout = s.dout := rfl
@[simp] theorem recordError_keyCnt (e : ErrCode) (s : State) : (recordError e s).keyCnt = 0 := rfl
@[simp] theorem recordError_dinCnt (e : ErrCode) (s : State) : (recordError e s).dinCnt = 0 := rfl
@[simp] theorem recordError_modeR (e : ErrCode) (s : State) : (recordError e s).modeR = s.modeR := rfl
@[simp] theorem recordError_phase (e : ErrCode) (s : State) : (recordError e s).phase = s.phase := rfl
@[simp] theorem recordError_upc (e : ErrCode) (s : State) : (recordError e s).upc = s.upc := rfl
@[simp] theorem recordError_done (e : ErrCode) (s : State) : (recordError e s).done = false := rfl
@[simp] theorem recordError_err (e : ErrCode) (s : State) : (recordError e s).err = e := rfl
@[simp] theorem recordError_rdata (e : ErrCode) (s : State) : (recordError e s).rdata = s.rdata := rfl
@[simp] theorem recordError_host (e : ErrCode) (s : State) : (recordError e s).host = s.host := rfl

/-! ### acceptCall -/

@[simp] theorem acceptCall_state (m : BitVec 2) (s : State) : (acceptCall m s).state = s.state := rfl
@[simp] theorem acceptCall_sched (m : BitVec 2) (s : State) : (acceptCall m s).sched = s.sched := rfl
@[simp] theorem acceptCall_dout (m : BitVec 2) (s : State) : (acceptCall m s).dout = s.dout := rfl
@[simp] theorem acceptCall_keyCnt (m : BitVec 2) (s : State) : (acceptCall m s).keyCnt = 0 := rfl
@[simp] theorem acceptCall_dinCnt (m : BitVec 2) (s : State) : (acceptCall m s).dinCnt = 0 := rfl
@[simp] theorem acceptCall_modeR (m : BitVec 2) (s : State) : (acceptCall m s).modeR = modeDirection m := rfl
@[simp] theorem acceptCall_phase (m : BitVec 2) (s : State) : (acceptCall m s).phase = .run := rfl
@[simp] theorem acceptCall_upc (m : BitVec 2) (s : State) : (acceptCall m s).upc = 0 := rfl
@[simp] theorem acceptCall_done (m : BitVec 2) (s : State) : (acceptCall m s).done = false := rfl
@[simp] theorem acceptCall_err (m : BitVec 2) (s : State) : (acceptCall m s).err = .none := rfl
@[simp] theorem acceptCall_rdata (m : BitVec 2) (s : State) : (acceptCall m s).rdata = s.rdata := rfl
@[simp] theorem acceptCall_host (m : BitVec 2) (s : State) : (acceptCall m s).host = s.host := rfl

/-! ### advance -/

@[simp] theorem advance_state (s : State) : (advance s).state = s.state := rfl
@[simp] theorem advance_sched (s : State) : (advance s).sched = s.sched := rfl
@[simp] theorem advance_dout (s : State) : (advance s).dout = s.dout := rfl
@[simp] theorem advance_keyCnt (s : State) : (advance s).keyCnt = s.keyCnt := rfl
@[simp] theorem advance_dinCnt (s : State) : (advance s).dinCnt = s.dinCnt := rfl
@[simp] theorem advance_modeR (s : State) : (advance s).modeR = s.modeR := rfl
@[simp] theorem advance_phase (s : State) : (advance s).phase = s.phase := rfl
@[simp] theorem advance_upc (s : State) : (advance s).upc = s.upc + 1 := rfl
@[simp] theorem advance_done (s : State) : (advance s).done = s.done := rfl
@[simp] theorem advance_err (s : State) : (advance s).err = s.err := rfl
@[simp] theorem advance_rdata (s : State) : (advance s).rdata = s.rdata := rfl
@[simp] theorem advance_host (s : State) : (advance s).host = s.host := rfl

/-! ### resetEdge -/

@[simp] theorem resetEdge_state (w : BusWord) (s : State) : (resetEdge w s).state = Block.zero := rfl
@[simp] theorem resetEdge_sched (w : BusWord) (s : State) : (resetEdge w s).sched = Vector.replicate 11 Block.zero := rfl
@[simp] theorem resetEdge_dout (w : BusWord) (s : State) : (resetEdge w s).dout = Block.zero := rfl
@[simp] theorem resetEdge_keyCnt (w : BusWord) (s : State) : (resetEdge w s).keyCnt = 0 := rfl
@[simp] theorem resetEdge_dinCnt (w : BusWord) (s : State) : (resetEdge w s).dinCnt = 0 := rfl
@[simp] theorem resetEdge_modeR (w : BusWord) (s : State) : (resetEdge w s).modeR = .encrypt := rfl
@[simp] theorem resetEdge_phase (w : BusWord) (s : State) : (resetEdge w s).phase = .idle := rfl
@[simp] theorem resetEdge_upc (w : BusWord) (s : State) : (resetEdge w s).upc = 0 := rfl
@[simp] theorem resetEdge_done (w : BusWord) (s : State) : (resetEdge w s).done = false := rfl
@[simp] theorem resetEdge_err (w : BusWord) (s : State) : (resetEdge w s).err = .none := rfl
@[simp] theorem resetEdge_rdata (w : BusWord) (s : State) : (resetEdge w s).rdata = cycleRdata s w := rfl
@[simp] theorem resetEdge_host (w : BusWord) (s : State) : (resetEdge w s).host = s.host := rfl

end Sys2Proof.Machine
end

