-- ==== Sys2Proof/Laws/Ops.lean ====
section
/-! SUPPORT. One lemma per shared operation: everything it can answer. -/

namespace Sys2Proof.Machine

/-! ### Counts and pushes -/

@[simp] theorem bumpCount_toNat (c : BitVec 5) : (bumpCount c).toNat = min (c.toNat + 1) 17 := by
  simp only [bumpCount, Config.countLimit, BitVec.toNat_ofNat]
  exact Nat.mod_eq_of_lt (by omega)

/-- What a push does to each byte: byte `cnt` becomes `d`, if there is one (R185, R186). -/
theorem storePush_get (b : Block) (cnt : BitVec 5) (d : Byte) (j : Fin 16) :
    (storePush b cnt d)[j] = if j.val = cnt.toNat then d else b[j] := by
  have hj := j.isLt
  unfold storePush
  split
  · simp only [Fin.getElem_fin, Vector.getElem_set]
    split <;> split <;> first | rfl | omega
  · rw [if_neg (by omega)]

/-! ### START -/

/-- A START is accepted when the check answers no error, and records the error otherwise (R191, R213). -/
theorem start_cases (mode : BitVec 2) (s : State) :
    (startCheck s mode = .none ∧ start mode s = acceptCall mode s) ∨
    (startCheck s mode ≠ .none ∧ start mode s = recordError (startCheck s mode) s) := by
  unfold start
  cases h : startCheck s mode <;> simp

/-- When the check answers no error (R212). -/
theorem startCheck_none (s : State) (mode : BitVec 2) :
    startCheck s mode = .none ↔ s.keyCnt = 16 ∧ s.dinCnt = 16 ∧ mode.getLsbD 1 = false := by
  unfold startCheck
  split <;> [skip; split <;> [skip; split]] <;> simp_all

/-! ### Bus cycles -/

theorem hostWrite_idle {s : State} (h : s.phase = .idle) (eff : State → State) :
    hostWrite eff s = .next (drive 0x00 (eff s)) := by simp [hostWrite, h]

theorem hostWrite_run {s : State} (h : s.phase = .run) (eff : State → State) :
    hostWrite eff s = .next (drive 0x00 s) := by simp [hostWrite, h]

/-- A cycle without an effect on the state, in any phase (R184, R187, R192 to R195). -/
@[simp] theorem hostWrite_id (s : State) : hostWrite id s = .next (drive 0x00 s) := by
  cases h : s.phase <;> simp [hostWrite, h]

/-- A CTRL write in IDLE is `BusWrite` at 0x00 (R183, R187 to R190). -/
theorem exec_decodeCtrl_idle {s : State} (h : s.phase = .idle) (d : Byte) :
    exec (decodeCtrl d) s = .next (drive 0x00 (if ctrlStart d then start (ctrlMode d) s else s)) := by
  have modes : ∀ d : Byte,
      (d.getLsbD 2 = true → badMode (d.extractLsb' 1 1) = ctrlMode d) ∧
      (d.getLsbD 2 = false → d.getLsbD 1 = true → ctrlMode d = 0b01) ∧
      (d.getLsbD 2 = false → d.getLsbD 1 = false → ctrlMode d = 0b00) := by decide
  obtain ⟨m1, m2, m3⟩ := modes d
  unfold decodeCtrl
  cases h0 : ctrlStart d <;> cases h2 : d.getLsbD 2 <;> cases h1 : d.getLsbD 1 <;>
    simp_all [exec, execWrCtrlNop, execStartEnc, execStartDec, execStartBadmode, hostWrite]

/-- A bus write in IDLE is `BusWrite` at its address (R183). -/
theorem exec_decodeWrite_idle {s : State} (h : s.phase = .idle) (a : BusAddr) (d : Byte) :
    exec (decodeWrite a d) s = .next (drive 0x00 (busWrite s a d)) := by
  unfold decodeWrite busWrite
  repeat' split
  all_goals first
    | contradiction
    | (rw [exec_decodeCtrl_idle h]; simp_all)
    | simp_all [exec, execWrKeyData, execWrDinData, execWrStatus, execWrCount, execWrDout, execWrRsvd06,
        execWrRsvd08, hostWrite]

/-- A bus write in RUN changes nothing (R183). -/
theorem exec_decodeWrite_run {s : State} (h : s.phase = .run) (a : BusAddr) (d : Byte) :
    exec (decodeWrite a d) s = .next (drive 0x00 s) := by
  unfold decodeWrite decodeCtrl
  repeat' split
  all_goals simp [exec, execWrKeyData, execWrDinData, execWrStatus, execWrCount, execWrDout, execWrRsvd06,
    execWrRsvd08, execWrCtrlNop, execStartEnc, execStartDec, execStartBadmode, hostWrite_run h]

/-- A bus read answers `BusRead` at its address, in any phase (R182). -/
theorem exec_decodeRead (s : State) (a : BusAddr) (d : Byte) :
    exec (decodeRead a d) s = .next (drive (busRead s a) s) := by
  have hi : ∀ a : BusAddr, ¬ a < 0x10 → 0x10 ≤ a := by decide
  have lo : ∀ a : BusAddr, a < 0x10 → ¬ 0x10 ≤ a := by decide
  unfold decodeRead busRead
  repeat' split
  all_goals first
    | contradiction
    | (exfalso; simp_all; done)
    | (exfalso; rename_i h1 h2; revert h1 h2; clear hi lo; rintro (rfl | rfl) <;> simp; done)
    | (simp [exec, execRdCtrl, execRdStatus, execRdKeyCount, execRdDinCount, execRdKeyData, execRdDinData, execRdRsvd06,
        execRdRsvd08, execRdDout, hostRead]; done)
    | (exfalso; exact lo _ ‹_› ‹_›)

/-- A cycle in RUN only drives `rdata`, whatever the bus word (R183, R202). -/
theorem exec_bus_run {s : State} (h : s.phase = .run) (w : BusWord) :
    exec (decodeBus w) s = .next (drive (cycleRdata s w) s) := by
  rcases decodeBus_cases w with ⟨h1, h2⟩ | ⟨h1, h2, h3⟩ | ⟨h1, h2, h3⟩
  · rw [h2]; simp [exec, execBusIdle, cycleRdata, h1]
  · rw [h3, exec_decodeWrite_run h]; simp [cycleRdata, h2]
  · rw [h3, exec_decodeRead]; simp [cycleRdata, h1, h2]

/-- A cycle in IDLE applies the write it carries, if any, and drives `rdata` from the pre-edge state (R160). -/
theorem exec_bus_idle {s : State} (h : s.phase = .idle) (w : BusWord) :
    exec (decodeBus w) s =
      .next (drive (cycleRdata s w) (if busSel w && busWe w then busWrite s (busAddr w) (busWdata w) else s)) := by
  rcases decodeBus_cases w with ⟨h1, h2⟩ | ⟨h1, h2, h3⟩ | ⟨h1, h2, h3⟩
  · rw [h2]; simp [exec, execBusIdle, cycleRdata, h1]
  · rw [h3, exec_decodeWrite_idle h]; simp [cycleRdata, h1, h2]
  · rw [h3, exec_decodeRead]; simp [cycleRdata, h1, h2]

/-- What `BusWrite` can do: accept or reject a START, push a byte, or nothing (R183). -/
theorem busWrite_cases (s : State) (a : BusAddr) (d : Byte) :
    (a = 0x00 ∧ ctrlStart d = true ∧ busWrite s a d = start (ctrlMode d) s) ∨
    (a = 0x04 ∧ busWrite s a d = pushKey d s) ∨
    (a = 0x05 ∧ busWrite s a d = pushDin d s) ∨
    ((a = 0x00 → ctrlStart d = false) ∧ a ≠ 0x04 ∧ a ≠ 0x05 ∧ busWrite s a d = s) := by
  unfold busWrite
  split <;> [split; split <;> [skip; split]] <;> simp_all

@[simp] theorem busRead_setHost (s : State) (h : List HostCycle) (a : BusAddr) :
    busRead { s with host := h } a = busRead s a := rfl
@[simp] theorem cycleRdata_setHost (s : State) (h : List HostCycle) (w : BusWord) :
    cycleRdata { s with host := h } w = cycleRdata s w := rfl

/-- `BusWrite` does not depend on the host's coming cycles and does not change them. -/
theorem busWrite_setHost (s : State) (h : List HostCycle) (a : BusAddr) (d : Byte) :
    busWrite { s with host := h } a d = { busWrite s a d with host := h } := by
  simp only [busWrite, start, startCheck]
  repeat' split
  all_goals first | rfl | simp_all

/-! ### Micro-ops -/

/-- What a decoded micro-op can be (R77, R79). -/
theorem decodeUop_cases {w : UopWord} {i : Instr} (h : decodeUop w = .ok i) :
    (∃ j : Fin 10, i = .keyexp (BitVec.ofNat 4 (j.val + 1)) ∧ w = BitVec.ofNat 8 (0x11 + j.val)) ∨
    (∃ r : Fin 11, i = .ark (BitVec.ofNat 4 r.val) ∧ w = BitVec.ofNat 8 (0x20 + r.val)) ∨
    (i = .sb ∧ w = 0x30) ∨ (i = .isb ∧ w = 0x40) ∨ (i = .sr ∧ w = 0x50) ∨ (i = .isr ∧ w = 0x60) ∨
    (i = .mc ∧ w = 0x70) ∨ (i = .imc ∧ w = 0x80) ∨ (i = .out ∧ w = 0x90) := by
  have key : ∀ w : UopWord,
      ((∃ j : Fin 10, decodeUop w = .ok (.keyexp (BitVec.ofNat 4 (j.val + 1))) ∧ w = BitVec.ofNat 8 (0x11 + j.val)) ∨
      (∃ r : Fin 11, decodeUop w = .ok (.ark (BitVec.ofNat 4 r.val)) ∧ w = BitVec.ofNat 8 (0x20 + r.val)) ∨
      (decodeUop w = .ok .sb ∧ w = 0x30) ∨ (decodeUop w = .ok .isb ∧ w = 0x40) ∨
      (decodeUop w = .ok .sr ∧ w = 0x50) ∨ (decodeUop w = .ok .isr ∧ w = 0x60) ∨
      (decodeUop w = .ok .mc ∧ w = 0x70) ∨ (decodeUop w = .ok .imc ∧ w = 0x80) ∨
      (decodeUop w = .ok .out ∧ w = 0x90)) ∨ (decodeUop w).isOk = false := by decide
  rcases key w with hk | hk
  · rw [h] at hk
    simpa only [Except.ok.injEq] using hk
  · rw [h] at hk
    simp [Except.isOk, Except.toBool] at hk

/-- KEYEXP with a legal round (R132). -/
theorem execKeyexp_legal (j : Fin 10) (s : State) :
    execKeyexp (BitVec.ofNat 4 (j.val + 1)) s =
      .next (advance { s with sched := s.sched.set (j.val + 1) (expandRound s.sched[j.val] (j.val + 1)) }) := by
  have : keyexpSource (BitVec.ofNat 4 (j.val + 1)) = some j := by revert j; decide
  simp [execKeyexp, this]

/-- ARK with a legal round (R147). -/
theorem execArk_legal (r : Fin 11) (s : State) :
    execArk (BitVec.ofNat 4 r.val) s = .next (advance { s with state := addRoundKey s.sched[r] s.state }) := by
  have : arkRound (BitVec.ofNat 4 r.val) = some r := by revert r; decide
  simp [execArk, this, transform]

/-- Everything a decoded micro-op can do: expand a round key, transform STATE, or complete (R132, R140, R164). -/
theorem exec_uop_cases {w : UopWord} {i : Instr} (h : decodeUop w = .ok i) (s : State) :
    (∃ j : Fin 10, w = BitVec.ofNat 8 (0x11 + j.val) ∧ exec i s =
      .next (advance { s with sched := s.sched.set (j.val + 1) (expandRound s.sched[j.val] (j.val + 1)) })) ∨
    (∃ f : Block → Block, w ≠ 0x90 ∧ (∀ j : Fin 10, w ≠ BitVec.ofNat 8 (0x11 + j.val)) ∧
      exec i s = .next (advance { s with state := f s.state })) ∨
    (w = 0x90 ∧ exec i s = .next { s with dout := s.state, done := true, phase := .idle }) := by
  rcases decodeUop_cases h with ⟨j, rfl, rfl⟩ | ⟨r, rfl, rfl⟩ | ⟨rfl, rfl⟩ | ⟨rfl, rfl⟩ | ⟨rfl, rfl⟩ | ⟨rfl, rfl⟩ |
    ⟨rfl, rfl⟩ | ⟨rfl, rfl⟩ | ⟨rfl, rfl⟩
  · exact .inl ⟨j, rfl, execKeyexp_legal j s⟩
  · exact .inr (.inl ⟨_, by revert r; decide, by revert r; decide, execArk_legal r s⟩)
  · exact .inr (.inl ⟨subBytes, by decide, by decide, rfl⟩)
  · exact .inr (.inl ⟨invSubBytes, by decide, by decide, rfl⟩)
  · exact .inr (.inl ⟨shiftRows, by decide, by decide, rfl⟩)
  · exact .inr (.inl ⟨invShiftRows, by decide, by decide, rfl⟩)
  · exact .inr (.inl ⟨mixColumns, by decide, by decide, rfl⟩)
  · exact .inr (.inl ⟨invMixColumns, by decide, by decide, rfl⟩)
  · exact .inr (.inr ⟨rfl, rfl⟩)

end Sys2Proof.Machine
end

