-- ==== Sys2Proof/Laws/PerInstr.lean ====
section
/-! SUPPORT. The family InRow, per instruction: the word of an instruction lies in its row of spec/opcode_table.json. -/

namespace Sys2Proof.Laws.InRow

/-- The word of the instruction matches the mask and pattern of its row. -/
def Statement (i : Instr) : Prop := i.row.holds (encode i) = true

/-- A bus word lies in a row if every bit the mask fixes has the pattern's value. -/
theorem holds_bus {p m w : BusWord} (h : ∀ i : Fin 15, (w.getLsbD i && m.getLsbD i) = p.getLsbD i) :
    (OpcodeRow.mk .bus p m).holds (.bus w) = true := by
  simp only [OpcodeRow.holds, decide_true, Bool.true_and, decide_eq_true_eq]
  exact BitVec.eq_of_getLsbD_eq fun i hi => by rw [BitVec.getLsbD_and]; exact h ⟨i, hi⟩

theorem busIdle (x : BitVec 14) : Statement (.busIdle x) :=
  holds_bus fun i => by fin_cases i <;> simp only [BitVec.getLsbD_append] <;> simp

theorem wrKeyData (x : Byte) : Statement (.wrKeyData x) :=
  holds_bus fun i => by fin_cases i <;> simp only [mkBusWord, BitVec.getLsbD_append] <;> simp

theorem wrDinData (x : Byte) : Statement (.wrDinData x) :=
  holds_bus fun i => by fin_cases i <;> simp only [mkBusWord, BitVec.getLsbD_append] <;> simp

theorem wrCtrlNop (x : BitVec 7) : Statement (.wrCtrlNop x) :=
  holds_bus fun i => by fin_cases i <;> simp only [mkBusWord, BitVec.getLsbD_append] <;> simp

theorem startEnc (x : BitVec 5) : Statement (.startEnc x) :=
  holds_bus fun i => by fin_cases i <;> simp only [mkBusWord, BitVec.getLsbD_append] <;> simp

theorem startDec (x : BitVec 5) : Statement (.startDec x) :=
  holds_bus fun i => by fin_cases i <;> simp only [mkBusWord, BitVec.getLsbD_append] <;> simp

theorem startBadmode (x : BitVec 5) (y : BitVec 1) : Statement (.startBadmode x y) :=
  holds_bus fun i => by fin_cases i <;> simp only [mkBusWord, BitVec.getLsbD_append] <;> simp

theorem wrStatus (x : Byte) : Statement (.wrStatus x) :=
  holds_bus fun i => by fin_cases i <;> simp only [mkBusWord, BitVec.getLsbD_append] <;> simp

theorem wrCount (x : BitVec 1) (y : Byte) : Statement (.wrCount x y) :=
  holds_bus fun i => by fin_cases i <;> simp only [mkBusWord, BitVec.getLsbD_append] <;> simp

theorem wrDout (x : BitVec 4) (y : Byte) : Statement (.wrDout x y) :=
  holds_bus fun i => by fin_cases i <;> simp only [mkBusWord, BitVec.getLsbD_append] <;> simp

theorem wrRsvd06 (x : BitVec 1) (y : Byte) : Statement (.wrRsvd06 x y) :=
  holds_bus fun i => by fin_cases i <;> simp only [mkBusWord, BitVec.getLsbD_append] <;> simp

theorem wrRsvd08 (x : BitVec 3) (y : Byte) : Statement (.wrRsvd08 x y) :=
  holds_bus fun i => by fin_cases i <;> simp only [mkBusWord, BitVec.getLsbD_append] <;> simp

theorem rdCtrl (x : Byte) : Statement (.rdCtrl x) :=
  holds_bus fun i => by fin_cases i <;> simp only [mkBusWord, BitVec.getLsbD_append] <;> simp

theorem rdStatus (x : Byte) : Statement (.rdStatus x) :=
  holds_bus fun i => by fin_cases i <;> simp only [mkBusWord, BitVec.getLsbD_append] <;> simp

theorem rdKeyCount (x : Byte) : Statement (.rdKeyCount x) :=
  holds_bus fun i => by fin_cases i <;> simp only [mkBusWord, BitVec.getLsbD_append] <;> simp

theorem rdDinCount (x : Byte) : Statement (.rdDinCount x) :=
  holds_bus fun i => by fin_cases i <;> simp only [mkBusWord, BitVec.getLsbD_append] <;> simp

theorem rdKeyData (x : Byte) : Statement (.rdKeyData x) :=
  holds_bus fun i => by fin_cases i <;> simp only [mkBusWord, BitVec.getLsbD_append] <;> simp

theorem rdDinData (x : Byte) : Statement (.rdDinData x) :=
  holds_bus fun i => by fin_cases i <;> simp only [mkBusWord, BitVec.getLsbD_append] <;> simp

theorem rdRsvd06 (x : BitVec 1) (y : Byte) : Statement (.rdRsvd06 x y) :=
  holds_bus fun i => by fin_cases i <;> simp only [mkBusWord, BitVec.getLsbD_append] <;> simp

theorem rdRsvd08 (x : BitVec 3) (y : Byte) : Statement (.rdRsvd08 x y) :=
  holds_bus fun i => by fin_cases i <;> simp only [mkBusWord, BitVec.getLsbD_append] <;> simp

theorem rdDout (x : BitVec 4) (y : Byte) : Statement (.rdDout x y) :=
  holds_bus fun i => by fin_cases i <;> simp only [mkBusWord, BitVec.getLsbD_append] <;> simp

theorem keyexp (x : BitVec 4) : Statement (.keyexp x) := by revert x; unfold Statement; decide

theorem ark (x : BitVec 4) : Statement (.ark x) := by revert x; unfold Statement; decide

theorem sb : Statement .sb := by unfold Statement; decide

theorem isb : Statement .isb := by unfold Statement; decide

theorem sr : Statement .sr := by unfold Statement; decide

theorem isr : Statement .isr := by unfold Statement; decide

theorem mc : Statement .mc := by unfold Statement; decide

theorem imc : Statement .imc := by unfold Statement; decide

theorem out : Statement .out := by unfold Statement; decide

end Sys2Proof.Laws.InRow
end

