-- ==== Sys2Proof/Laws/Step.lean ====
section
/-! SUPPORT. What one edge can do, said once; what the micro-programs hold; runs of several steps. -/

namespace Sys2Proof.Machine

/-! ### The micro-programs -/

/-- A KEYEXP word stands at one place of either program (R161, R162). -/
theorem progWord_keyexp {m : Mode} {n : BitVec 6} {j : Fin 10} (h : progWord m n = some (BitVec.ofNat 8 (0x11 + j.val))) :
    n.toNat = j.val := by
  have key : ∀ (n : BitVec 6) (j : Fin 10),
      (progWord .encrypt n = some (BitVec.ofNat 8 (0x11 + j.val)) → n.toNat = j.val) ∧
      (progWord .decrypt n = some (BitVec.ofNat 8 (0x11 + j.val)) → n.toNat = j.val) := by decide
  cases m
  · exact (key n j).1 h
  · exact (key n j).2 h

/-- OUT stands at UPC 50 only (R161, R162). -/
theorem progWord_out {m : Mode} {n : BitVec 6} : progWord m n = some 0x90 ↔ n = 50 := by
  cases m <;> decide +revert

/-- The first ten words are KEYEXP 1..10 (R134). -/
theorem progWord_first_ten (m : Mode) {n : BitVec 6} (h : n.toNat < 10) :
    progWord m n = some (BitVec.ofNat 8 (0x11 + n.toNat)) := by
  cases m <;> decide +revert

/-- Every word of a program decodes (R167). -/
theorem progWord_decodes (m : Mode) {n : BitVec 6} (h : n.toNat ≤ 50) :
    ∃ w i, progWord m n = some w ∧ decodeUop w = .ok i := by
  have : (match progWord m n with
      | some w => (decodeUop w).isOk
      | none => false) = true := by
    cases m <;> decide +revert
  cases hw : progWord m n with
  | none => simp [hw] at this
  | some w =>
    cases hi : decodeUop w with
    | ok i => exact ⟨w, i, rfl, hi⟩
    | error e => simp [hw, hi, Except.isOk, Except.toBool] at this

/-- There is no word above UPC 50 (U9). -/
theorem progWord_none {m : Mode} {n : BitVec 6} : progWord m n = none ↔ 50 < n.toNat := by
  unfold progWord
  split <;> simp <;> omega

/-! ### Ports -/

@[simp] theorem busRead_drive (v : Byte) (s : State) (a : BusAddr) : busRead (drive v s) a = busRead s a := rfl
@[simp] theorem busRead_takeCycle (s : State) (a : BusAddr) : busRead (takeCycle s) a = busRead s a := rfl
@[simp] theorem cycleRdata_takeCycle (s : State) (w : BusWord) : cycleRdata (takeCycle s) w = cycleRdata s w := rfl

/-- `rdata` answers a read and is 0x00 otherwise (R181). -/
theorem cycleRdata_eq (s : State) (w : BusWord) :
    cycleRdata s w = if isRead w then busRead s (busAddr w) else 0x00 := by
  unfold cycleRdata isRead
  cases busSel w <;> cases busWe w <;> simp

/-- The host's next cycle, whether or not the list has one (log 1). -/
theorem nextCycle_of_cons {s : State} {c : HostCycle} {h : List HostCycle} (hs : s.host = c :: h) :
    nextCycle s = c ∧ takeCycle s = { s with host := h } := by
  simp [nextCycle, takeCycle, hs]

/-! ### The edge -/

theorem edge_reset {c : HostCycle} (h : c.rst = true) (s : State) : edge c s = .next (resetEdge c.word s) := by
  simp [edge, h]

theorem edge_idle {c : HostCycle} {s : State} (h : c.rst = false) (hp : s.phase = .idle) :
    edge c s = .next (drive (cycleRdata s c.word)
      (if busSel c.word && busWe c.word then busWrite s (busAddr c.word) (busWdata c.word) else s)) := by
  simp only [edge, h, hp, Bool.false_eq_true, if_false]
  exact exec_bus_idle hp c.word

theorem edge_run {c : HostCycle} {s : State} (h : c.rst = false) (hp : s.phase = .run) :
    edge c s = runStep (drive (cycleRdata s c.word) s) := by
  simp only [edge, h, hp, Bool.false_eq_true, if_false, exec_bus_run hp]

/-- Everything an edge in RUN can do when it answers a next state, by the word at UPC (R163). -/
theorem runStep_cases {s t : State} (h : runStep s = .next t) :
    (∃ j : Fin 10, s.upc.toNat = j.val ∧
      t = advance { s with sched := s.sched.set (j.val + 1) (expandRound s.sched[j.val] (j.val + 1)) }) ∨
    (∃ f : Block → Block, 10 ≤ s.upc.toNat ∧ s.upc.toNat < 50 ∧ t = advance { s with state := f s.state }) ∨
    (s.upc = 50 ∧ t = { s with dout := s.state, done := true, phase := .idle }) := by
  unfold runStep fetchUop at h
  cases hw : progWord s.modeR s.upc with
  | none => simp [hw] at h
  | some w =>
    cases hi : decodeUop w with
    | error e => simp [hw, hi] at h
    | ok i =>
      simp only [hw, hi] at h
      rcases exec_uop_cases hi s with ⟨j, rfl, he⟩ | ⟨f, h1, h2, he⟩ | ⟨rfl, he⟩ <;> rw [he] at h <;> cases h
      · exact .inl ⟨j, progWord_keyexp hw, rfl⟩
      · refine .inr (.inl ⟨f, ?_, ?_, rfl⟩)
        · by_contra hlt
          have hlt : s.upc.toNat < 10 := by omega
          rw [progWord_first_ten _ hlt] at hw
          exact h2 ⟨s.upc.toNat, hlt⟩ (Option.some.inj hw).symm
        · have hle : s.upc.toNat ≤ 50 := by
            by_contra hgt
            rw [progWord_none.mpr (by omega)] at hw
            cases hw
          have hne : s.upc.toNat ≠ 50 := by
            intro heq
            rw [progWord_out.mpr (BitVec.eq_of_toNat_eq heq)] at hw
            exact h1 (Option.some.inj hw).symm
          omega
      · exact .inr (.inr ⟨progWord_out.mp hw, rfl⟩)

/-- In RUN up to UPC 50 an edge answers a next state (R216). -/
theorem runStep_completes {s : State} (h : s.upc.toNat ≤ 50) : ∃ t, runStep s = .next t := by
  obtain ⟨w, i, hw, hi⟩ := progWord_decodes s.modeR h
  simp only [runStep, fetchUop, hw, hi]
  rcases exec_uop_cases hi s with ⟨_, _, he⟩ | ⟨_, _, _, he⟩ | ⟨_, he⟩ <;> exact ⟨_, he⟩

/-- Everything a step can do when it answers a next state (R160, R170). -/
theorem step_cases {s t : State} (h : step s = .next t) :
    ((nextCycle s).rst = true ∧ t = resetEdge (nextCycle s).word (takeCycle s)) ∨
    ((nextCycle s).rst = false ∧ s.phase = .idle ∧
      t = drive (cycleRdata s (nextCycle s).word)
        (if busSel (nextCycle s).word && busWe (nextCycle s).word then
          busWrite (takeCycle s) (busAddr (nextCycle s).word) (busWdata (nextCycle s).word)
        else takeCycle s)) ∨
    ((nextCycle s).rst = false ∧ s.phase = .run ∧
      runStep (drive (cycleRdata s (nextCycle s).word) (takeCycle s)) = .next t) := by
  unfold step at h
  cases hr : (nextCycle s).rst with
  | true => rw [edge_reset hr] at h; cases h; simp
  | false =>
    cases hp : s.phase with
    | idle => rw [edge_idle hr (s := takeCycle s) hp] at h; cases h; simp
    | run => rw [edge_run hr (s := takeCycle s) hp] at h; simpa using h

/-! ### Runs -/

theorem run_zero (s : State) : Host.Core.run Sys2Proof.core 0 s = .next s := rfl

theorem run_succ (n : Nat) (s : State) :
    Host.Core.run Sys2Proof.core (n + 1) s =
      match step s with
      | .next t => Host.Core.run Sys2Proof.core n t
      | .fault f => .fault f
      | .refused r => .refused r := by
  cases h : step s <;> simp [Host.Core.run, Sys2Proof.core, h]

/-- A run of m + n steps is a run of m steps and then one of n. -/
theorem run_add {m n : Nat} {s t : State} (h : Host.Core.run Sys2Proof.core m s = .next t) :
    Host.Core.run Sys2Proof.core (m + n) s = Host.Core.run Sys2Proof.core n t := by
  induction m generalizing s with
  | zero => cases h; rw [Nat.zero_add]
  | succ m ih =>
    rw [Nat.add_right_comm, run_succ]
    rw [run_succ] at h
    cases hs : step s with
    | next u => rw [hs] at h; exact ih h
    | fault f => rw [hs] at h; cases h
    | refused r => rw [hs] at h; cases h

end Sys2Proof.Machine
end

