-- ==== Sys2Proof/Tests/Slice0.lean ====
section
/-! SUPPORT. The model's own tests: well-formedness, decoding of words written out from 30_encoding.md, one step or one
meaning on small states with the values of 95_test_vectors.md, and a witness for the hypotheses of every statement. -/

namespace Sys2Proof.Tests

open Sys2Proof Sys2Proof.Machine

/-! ### Small states -/

/-- The block whose 16 bytes, byte 0 first, are the hexadecimal digits of `n`. -/
def hx (n : Nat) : Block := Vector.ofFn fun i => BitVec.ofNat 8 (n >>> (8 * (15 - i.val)))

/-- IDLE with the given counts. -/
def loaded (keyCnt dinCnt : BitVec 5) : State := { State.reset with keyCnt := keyCnt, dinCnt := dinCnt }

/-- RUN at a UPC, with a block in STATE. -/
def running (upc : BitVec 6) (b : Block) : State := { State.reset with phase := .run, upc := upc, state := b }

/-- The state a result holds, if it is a next state; else the state after reset. -/
def after : Result → State
  | .next t => t
  | _ => State.reset

/-- The next state of a result, if it has one. -/
def answer : Result → Option State
  | .next t => some t
  | _ => none

/-- The fault of a result, if it has one. -/
def faultOf : Result → Option Fault
  | .fault f => some f
  | _ => none

/-- A host cycle without reset. -/
def cyc (w : BusWord) : HostCycle := { rst := false, word := w }

/-- A host cycle with reset. -/
def rstCycle : HostCycle := { rst := true, word := 0x4100 }

/-! ### Well-formedness -/

theorem test_wf_keyexp_zero_refused : (Instr.keyexp 0).wf = false := by decide
theorem test_wf_keyexp_eleven_refused : (Instr.keyexp 11).wf = false := by decide
theorem test_wf_ark_eleven_refused : (Instr.ark 11).wf = false := by decide
theorem test_wf_legal_rounds :
    (Instr.keyexp 1).wf = true ∧ (Instr.keyexp 10).wf = true ∧ (Instr.ark 0).wf = true ∧ (Instr.ark 10).wf = true := by
  decide

/-! ### Decoding: the bits are `sel`, `we`, `addr`, `wdata` of R71 and `opc`, `arg` of R73, with the rows of R76 and R77 -/

theorem test_decode_busIdle : decodeTableWord 16 0b0_1_00100_00010010 = some (.busIdle 0x2412) := by decide
theorem test_decode_wrKeyData : decodeTableWord 16 0b1_1_00100_00101011 = some (.wrKeyData 0x2b) := by decide
theorem test_decode_wrDinData : decodeTableWord 16 0b1_1_00101_11111111 = some (.wrDinData 0xff) := by decide
theorem test_decode_wrCtrlNop : decodeTableWord 16 0b1_1_00000_00000110 = some (.wrCtrlNop 3) := by decide
theorem test_decode_startEnc : decodeTableWord 16 0b1_1_00000_10101_00_1 = some (.startEnc 0b10101) := by decide
theorem test_decode_startDec : decodeTableWord 16 0b1_1_00000_10001_01_1 = some (.startDec 0b10001) := by decide
theorem test_decode_startBadmode :
    decodeTableWord 16 0b1_1_00000_00000_10_1 = some (.startBadmode 0 0) ∧
    decodeTableWord 16 0b1_1_00000_00011_11_1 = some (.startBadmode 3 1) := by decide
theorem test_decode_wrStatus : decodeTableWord 16 0b1_1_00001_01010101 = some (.wrStatus 0x55) := by decide
theorem test_decode_wrCount :
    decodeTableWord 16 0b1_1_00010_00000001 = some (.wrCount 0 1) ∧
    decodeTableWord 16 0b1_1_00011_00000001 = some (.wrCount 1 1) := by decide
theorem test_decode_wrDout :
    decodeTableWord 16 0b1_1_10000_00000001 = some (.wrDout 0 1) ∧
    decodeTableWord 16 0b1_1_11111_00000001 = some (.wrDout 15 1) := by decide
theorem test_decode_wrRsvd06 :
    decodeTableWord 16 0b1_1_00110_00000001 = some (.wrRsvd06 0 1) ∧
    decodeTableWord 16 0b1_1_00111_00000001 = some (.wrRsvd06 1 1) := by decide
theorem test_decode_wrRsvd08 :
    decodeTableWord 16 0b1_1_01000_00000001 = some (.wrRsvd08 0 1) ∧
    decodeTableWord 16 0b1_1_01111_00000001 = some (.wrRsvd08 7 1) := by decide
theorem test_decode_rdCtrl : decodeTableWord 16 0b1_0_00000_00000001 = some (.rdCtrl 1) := by decide
theorem test_decode_rdStatus : decodeTableWord 16 0b1_0_00001_00000000 = some (.rdStatus 0) := by decide
theorem test_decode_rdKeyCount : decodeTableWord 16 0b1_0_00010_00000000 = some (.rdKeyCount 0) := by decide
theorem test_decode_rdDinCount : decodeTableWord 16 0b1_0_00011_00000000 = some (.rdDinCount 0) := by decide
theorem test_decode_rdKeyData : decodeTableWord 16 0b1_0_00100_00000000 = some (.rdKeyData 0) := by decide
theorem test_decode_rdDinData : decodeTableWord 16 0b1_0_00101_00000000 = some (.rdDinData 0) := by decide
theorem test_decode_rdRsvd06 : decodeTableWord 16 0b1_0_00111_00000000 = some (.rdRsvd06 1 0) := by decide
theorem test_decode_rdRsvd08 : decodeTableWord 16 0b1_0_01001_00000000 = some (.rdRsvd08 1 0) := by decide
theorem test_decode_rdDout :
    decodeTableWord 16 0b1_0_10000_00000000 = some (.rdDout 0 0) ∧
    decodeTableWord 16 0b1_0_11010_00000000 = some (.rdDout 10 0) := by decide
theorem test_decode_keyexp :
    decodeTableWord 8 0b0001_0001 = some (.keyexp 1) ∧ decodeTableWord 8 0b0001_1010 = some (.keyexp 10) := by decide
theorem test_decode_ark :
    decodeTableWord 8 0b0010_0000 = some (.ark 0) ∧ decodeTableWord 8 0b0010_1010 = some (.ark 10) := by decide
theorem test_decode_sb : decodeTableWord 8 0b0011_0000 = some .sb := by decide
theorem test_decode_isb : decodeTableWord 8 0b0100_0000 = some .isb := by decide
theorem test_decode_sr : decodeTableWord 8 0b0101_0000 = some .sr := by decide
theorem test_decode_isr : decodeTableWord 8 0b0110_0000 = some .isr := by decide
theorem test_decode_mc : decodeTableWord 8 0b0111_0000 = some .mc := by decide
theorem test_decode_imc : decodeTableWord 8 0b1000_0000 = some .imc := by decide
theorem test_decode_out : decodeTableWord 8 0b1001_0000 = some .out := by decide

/-- R79: one reserved word of each case, rejected by its name. -/
theorem test_decode_reserved_words :
    decodeUop 0x00 = .error (.reservedOpcode 0x00) ∧ decodeUop 0xa0 = .error (.reservedOpcode 0xa0) ∧
    decodeUop 0x10 = .error (.keyexpRound 0) ∧ decodeUop 0x1b = .error (.keyexpRound 11) ∧
    decodeUop 0x2b = .error (.arkRound 11) ∧ decodeUop 0x31 = .error (.nonzeroArg 0x31) ∧
    decodeUop 0x98 = .error (.nonzeroArg 0x98) := by decide

/-- A number above the format names no word (log 9). -/
theorem test_decode_too_wide : decodeTableWord 8 0x100 = none ∧ decodeTableWord 16 0x8000 = none := by decide

/-! ### Host writes -/

theorem test_wrKeyData_last_byte :
    (after (exec (.wrKeyData 0x0f) (loaded 15 0))).sched[0] = hx 0x0f ∧
    (after (exec (.wrKeyData 0x0f) (loaded 15 0))).keyCnt = 16 := by decide

/-- The 17th and later pushes store nothing and the count stays at 17 (R185). -/
theorem test_wrKeyData_saturates :
    (after (exec (.wrKeyData 0x10) (loaded 16 0))).sched[0] = Block.zero ∧
    (after (exec (.wrKeyData 0x10) (loaded 16 0))).keyCnt = 17 ∧
    (after (exec (.wrKeyData 0x10) (loaded 17 0))).keyCnt = 17 := by decide

theorem test_wrDinData_first_byte :
    (after (exec (.wrDinData 0x69) (loaded 3 0))).state = hx 0x69000000000000000000000000000000 ∧
    (after (exec (.wrDinData 0x69) (loaded 3 0))).dinCnt = 1 ∧
    (after (exec (.wrDinData 0x69) (loaded 3 0))).keyCnt = 3 := by decide

/-- A push in RUN is lost (R203). -/
theorem test_wrDinData_ignored_in_run :
    answer (exec (.wrDinData 0xff) (running 5 (hx 7))) = some (running 5 (hx 7)) := by decide

theorem test_wrCtrlNop_keeps_counts : answer (exec (.wrCtrlNop 0x7f) (loaded 16 16)) = some (loaded 16 16) := by decide
theorem test_wrStatus_ignored : answer (exec (.wrStatus 0xff) (loaded 16 17)) = some (loaded 16 17) := by decide
theorem test_wrCount_ignored : answer (exec (.wrCount 1 0xff) (loaded 16 17)) = some (loaded 16 17) := by decide
theorem test_wrDout_ignored : answer (exec (.wrDout 3 0xff) (loaded 16 17)) = some (loaded 16 17) := by decide
theorem test_wrRsvd06_ignored : answer (exec (.wrRsvd06 1 0xff) (loaded 16 17)) = some (loaded 16 17) := by decide
theorem test_wrRsvd08_ignored : answer (exec (.wrRsvd08 7 0xff) (loaded 16 17)) = some (loaded 16 17) := by decide

/-- `sel = 0` with the other pins those of a push: nothing is pushed, and `rdata` falls to 0x00 (R184, R181). -/
theorem test_busIdle_pushes_nothing :
    answer (exec (.busIdle 0x2412) { loaded 1 2 with rdata := 0x55 }) = some (loaded 1 2) := by decide

/-! ### START (60_exceptions.md: V-ERR values are the codes of R210) -/

theorem test_startEnc_accepted :
    answer (exec (.startEnc 31) { loaded 16 16 with done := true, err := .invalidMode, modeR := .decrypt, upc := 50 }) =
      some { State.reset with phase := .run } := by decide

/-- The key length is checked before the block length (R212). -/
theorem test_startEnc_short_key :
    answer (exec (.startEnc 0) { loaded 15 3 with done := true }) = some { State.reset with err := .invalidKeyLength } := by decide

theorem test_startDec_accepted :
    answer (exec (.startDec 0) (loaded 16 16)) = some { State.reset with phase := .run, modeR := .decrypt } := by decide

theorem test_startDec_long_block :
    answer (exec (.startDec 0) (loaded 16 17)) = some { State.reset with err := .invalidBlockLength } := by decide

/-- P4: CTRL 0x05 on a full load gives code 3; DOUT and MODE_R keep their values. -/
theorem test_startBadmode_code :
    answer (exec (.startBadmode 0 0) { loaded 16 16 with done := true, dout := hx 0x69, modeR := .decrypt }) =
      some { State.reset with err := .invalidMode, dout := hx 0x69, modeR := .decrypt } := by decide

theorem test_startBadmode_length_first :
    answer (exec (.startBadmode 0 1) (loaded 16 15)) = some { State.reset with err := .invalidBlockLength } := by decide

/-! ### Host reads -/

/-- P4 and P1: STATUS 0c after an invalid mode, 01 in RUN, 02 after a call. -/
theorem test_rdStatus :
    (after (exec (.rdStatus 0xff) { State.reset with err := .invalidMode })).rdata = 0x0c ∧
    (after (exec (.rdStatus 0) (running 5 Block.zero))).rdata = 0x01 ∧
    (after (exec (.rdStatus 0) { State.reset with done := true })).rdata = 0x02 := by decide

/-- P5: KEY_COUNT reads 11 after 17 pushes. -/
theorem test_rdKeyCount : (after (exec (.rdKeyCount 0) (loaded 17 5))).rdata = 0x11 := by decide
theorem test_rdDinCount : (after (exec (.rdDinCount 0) (loaded 17 5))).rdata = 0x05 := by decide

/-- P1: DOUT0 is 69 and DOUT15 is 5a. -/
theorem test_rdDout :
    (after (exec (.rdDout 0 0) { State.reset with dout := hx 0x69c4e0d86a7b0430d8cdb78070b4c55a })).rdata = 0x69 ∧
    (after (exec (.rdDout 15 0) { State.reset with dout := hx 0x69c4e0d86a7b0430d8cdb78070b4c55a })).rdata = 0x5a := by
  decide

/-- Write-only and reserved addresses read 0x00 whatever the registers hold (R196, R201). -/
theorem test_rd_zero_addresses :
    ∀ i ∈ [Instr.rdCtrl 1, .rdKeyData 2, .rdDinData 3, .rdRsvd06 1 4, .rdRsvd08 7 5],
      (after (exec i { loaded 9 9 with state := hx 1, dout := hx 2, rdata := 0x55 })).rdata = 0x00 := by decide

/-! ### Tables and field products (95_test_vectors.md V-TAB-1, V-TAB-2, V-GF-1) -/

theorem test_tables :
    sbox 0x00 = 0x63 ∧ sbox 0x53 = 0xed ∧ sbox 0xff = 0x16 ∧ invSbox 0x52 = 0x48 ∧ invSbox 0xfe = 0x0c ∧
    [1, 2, 3, 4, 5, 6, 7, 8, 9, 10].map rcon = [0x01, 0x02, 0x04, 0x08, 0x10, 0x20, 0x40, 0x80, 0x1b, 0x36] := by decide

theorem test_gfMultiply :
    gfMultiply 0x57 0x83 = 0xc1 ∧ gfMultiply 0x80 0x02 = 0x1b ∧ gfMultiply 0x80 0x80 = 0x9a ∧
    gfMultiply 0x0e 0xff = 0x8d ∧ gfMultiply 0x0d 0x2e = 0xfd := by decide

/-! ### Micro-ops (95_test_vectors.md V-KEY-1, V-KEY-5, V-RT-1, V-RT-2) -/

/-- V-KEY-1: S1's key, round 1. -/
theorem test_keyexp_one :
    (after (exec (.keyexp 1) { State.reset with
      sched := State.reset.sched.set 0 (hx 0x000102030405060708090a0b0c0d0e0f) })).sched[1] =
        hx 0xd6aa74fdd2af72fadaa678f1d6ab76fe := by decide

/-- V-KEY-5: round 9 on zero uses the first reduced constant. -/
theorem test_keyexp_nine :
    (after (exec (.keyexp 9) State.reset)).sched[9] = hx 0x78636363786363637863636378636363 ∧
    (after (exec (.keyexp 9) State.reset)).upc = 1 := by decide

theorem test_ark :
    (after (exec (.ark 1) { State.reset with
      state := hx 0x00112233445566778899aabbccddeeff
      sched := State.reset.sched.set 1 (hx 0xd6aa74fdd2af72fadaa678f1d6ab76fe) })).state =
        hx 0xd6bb56ce96fa148d523fd24a1a769801 := by decide

theorem test_sb :
    (after (exec .sb (running 11 (hx 0x00102030405060708090a0b0c0d0e0f0)))).state =
      hx 0x63cab7040953d051cd60e0e7ba70e18c := by decide
theorem test_isb :
    (after (exec .isb (running 12 (hx 0x00102030405060708090a0b0c0d0e0f0)))).state =
      hx 0x527c5408726c90d03a9647fc1f60a017 := by decide
theorem test_sr :
    (after (exec .sr (running 12 (hx 0x000102030405060708090a0b0c0d0e0f)))).state =
      hx 0x00050a0f04090e03080d02070c01060b := by decide
theorem test_isr :
    (after (exec .isr (running 11 (hx 0x000102030405060708090a0b0c0d0e0f)))).state =
      hx 0x000d0a0704010e0b0805020f0c090603 := by decide

/-- V-RT-2: four columns of the table at once. -/
theorem test_mc :
    (after (exec .mc (running 13 (hx 0xdb135345f20a225cd4d4d4d501000000)))).state =
      hx 0x8e4da1bc9fdc589dd5d5d7d602010103 := by decide
theorem test_imc :
    (after (exec .imc (running 14 (hx 0xdb135345f20a225cd4d4d4d501000000)))).state =
      hx 0x32a41d55aec36982ddd9dfda0e090d0b := by decide

theorem test_out :
    answer (exec .out (running 50 (hx 0x69))) =
      some { State.reset with state := hx 0x69, dout := hx 0x69, done := true, upc := 50 } := by decide

/-! ### Steps -/

/-- The decoder's instruction runs as the first step after reset, in both formats. -/
theorem test_step_runs_the_placed_word :
    answer (step (State.reset.withFetchWord 16 0x64aa)) = answer (exec (.wrKeyData 0xaa) State.reset) ∧
    answer (step (State.reset.withFetchWord 8 0x30)) =
      some { State.reset with phase := .run, upc := 12, state := hx 0x63636363636363636363636363636363 } ∧
    answer (step (State.reset.withFetchWord 8 0x60)) = some { State.reset with phase := .run, modeR := .decrypt, upc := 12 } ∧
    faultOf (step (State.reset.withFetchWord 8 0x10)) = some (.noRomWord 63) := by decide

/-- P7: a reset edge in RUN aborts the call; a read in its cycle answers from the pre-edge state. -/
theorem test_step_reset_aborts :
    answer (step { running 20 (hx 5) with host := [rstCycle, cyc 0x6400] }) =
      some { State.reset with rdata := 0x01, host := [cyc 0x6400] } := by decide

/-- The read in the cycle of OUT still sees BUSY (P1: the 51st poll reads 01), and a write in RUN is lost beside the
micro-op. -/
theorem test_step_in_run :
    (after (step { running 50 (hx 5) with host := [cyc 0x4100] })).rdata = 0x01 ∧
    (after (step { running 50 (hx 5) with host := [cyc 0x4100] })).phase = .idle ∧
    answer (step { running 12 (hx 0) with host := [cyc 0x64aa] }) = some (running 13 (hx 0)) := by decide

/-! ### The bus rows are those of spec/opcode_table.json -/

theorem test_bus_rows_are_twentyone : busRows.length = 21 ∧ busRows.Nodup := by decide

/-! ### Witnesses: for every statement with hypotheses, a case that meets them together -/

/-- IDLE with the host's coming cycles. -/
def hosted (s : State) (h : List HostCycle) : State := { s with host := h }

/-- A host cycle that writes `d` to `a`. -/
def wr (a : BusAddr) (d : Byte) : HostCycle := cyc (mkBusWord true true a d)

/-- `nk` key pushes and `nd` block pushes of zero. -/
def pushes (nk nd : Nat) : List HostCycle := List.replicate nk (wr 0x04 0) ++ List.replicate nd (wr 0x05 0)

theorem witness_DecodingAnEncodedInstructionReturnsIt :
    (Instr.wrDout 15 0xff).wf = true ∧ (Instr.keyexp 1).wf = true ∧ (Instr.keyexp 10).wf = true ∧
    (Instr.ark 0).wf = true ∧ (Instr.ark 10).wf = true := by decide

theorem witness_EncodingADecodedWordReturnsIt :
    decode (.bus 0x7fff) = .ok (.wrDout 15 0xff) ∧ decode (.uop 0x2a) = .ok (.ark 10) := by decide

theorem witness_EveryBusWordIsInExactlyOneRow : ⟨.bus, 20480, 28672⟩ ∈ busRows := by decide

theorem witness_ReservedMicroOpWords :
    (Instr.keyexp 0).wf = false ∧ (Instr.keyexp 11).wf = false ∧ (Instr.keyexp 15).wf = false ∧
    (Instr.ark 11).wf = false ∧ (Instr.ark 15).wf = false := by decide

theorem witness_StepInIdleRunsTheBusWord :
    (hosted State.reset [cyc 0x642b]).host = cyc 0x642b :: [] ∧ (cyc 0x642b).rst = false ∧
    (hosted State.reset [cyc 0x642b]).phase = .idle := by decide

theorem witness_StepInRunRunsTheFetchedMicroOp :
    (hosted (running 50 Block.zero) [cyc 0x4100]).host = cyc 0x4100 :: [] ∧ (cyc 0x4100).rst = false ∧
    (hosted (running 50 Block.zero) [cyc 0x4100]).phase = .run ∧
    progWord .encrypt 0 = some 0x11 ∧ decodeUop 0x11 = .ok (.keyexp 1) ∧
    progWord (running 50 Block.zero).modeR (running 50 Block.zero).upc = some 0x90 ∧ decodeUop 0x90 = .ok .out := by
  decide

theorem witness_EmptyHostListIsAnIdleHost : (running 3 Block.zero).host = [] := by decide

theorem witness_ResetEdgeSetsEveryElement :
    (hosted (running 20 Block.zero) [rstCycle]).host = rstCycle :: [] ∧ rstCycle.rst = true := by decide

theorem witness_StepIsTheEdgeFunction : (hosted (loaded 16 16) [cyc 0x6001]).host = cyc 0x6001 :: [] := by decide

theorem witness_FetchAboveTheProgramFaults :
    (hosted (running 51 Block.zero) [cyc 0]).host = cyc 0 :: [] ∧ (cyc 0).rst = false ∧
    (hosted (running 51 Block.zero) [cyc 0]).phase = .run ∧ 50 < (running 51 Block.zero).upc.toNat := by decide

theorem witness_PlacedWordRunsNext : decodeUop 0x80 = .ok .imc := by decide

theorem witness_KeyPushStoresOneByteAndCounts :
    (loaded 0 0).phase = .idle ∧ (loaded 15 0).phase = .idle ∧ (loaded 16 0).phase = .idle ∧ (loaded 17 0).phase = .idle ∧
    (running 0 Block.zero).phase = .run ∧ (0 : Fin 16).val = (loaded 0 0).keyCnt.toNat ∧
    (15 : Fin 16).val = (loaded 15 0).keyCnt.toNat ∧ (10 : Fin 11) ≠ 0 := by decide

theorem witness_BlockPushStoresOneByteAndCounts :
    (loaded 0 0).phase = .idle ∧ (loaded 0 15).phase = .idle ∧ (loaded 0 17).phase = .idle ∧
    (running 0 Block.zero).phase = .run ∧ (15 : Fin 16).val = (loaded 0 15).dinCnt.toNat := by decide

theorem witness_ReservedAddressWritesAreIgnored :
    (0x06 : BusAddr) ≤ 0x06 ∧ (0x0F : BusAddr) ≤ 0x0F ∧ (0x06 : BusAddr) ≤ 0x0F := by decide

theorem witness_StartCheckPriority :
    (loaded 15 16).keyCnt ≠ 16 ∧ (loaded 17 17).keyCnt ≠ 16 ∧
    (loaded 16 15).keyCnt = 16 ∧ (loaded 16 15).dinCnt ≠ 16 ∧ (loaded 16 17).dinCnt ≠ 16 ∧
    (loaded 16 16).keyCnt = 16 ∧ (loaded 16 16).dinCnt = 16 ∧
    (0b10 : BitVec 2).getLsbD 1 = true ∧ (0b01 : BitVec 2).getLsbD 1 = false := by decide

theorem witness_StartSharedSemantics_accepted :
    (loaded 16 16).phase = .idle ∧ ((∃ x, Instr.startDec 3 = .startDec x) ∧ (0b01 : BitVec 2) = 0b01) ∧
    startCheck (loaded 16 16) 0b01 = .none := ⟨by decide, ⟨⟨_, rfl⟩, rfl⟩, by decide⟩

theorem witness_StartSharedSemantics_rejected :
    (loaded 16 16).phase = .idle ∧ ((∃ x, Instr.startBadmode 3 1 = .startBadmode x 1) ∧ (0b11 : BitVec 2) = 0b11) ∧
    startCheck (loaded 16 16) 0b11 ≠ .none := ⟨by decide, ⟨⟨_, rfl⟩, rfl⟩, by decide⟩

theorem witness_StartWithAFullLoadIsAccepted :
    (loaded 16 16).phase = .idle ∧ (loaded 16 16).keyCnt = 16 ∧ (loaded 16 16).dinCnt = 16 := by decide

theorem witness_StartWithABadModeIsRejected :
    (loaded 15 16).phase = .idle ∧ (loaded 15 16).keyCnt ≠ 16 ∧
    (loaded 16 17).phase = .idle ∧ (loaded 16 17).keyCnt = 16 ∧ (loaded 16 17).dinCnt ≠ 16 ∧
    (loaded 16 16).phase = .idle ∧ (loaded 16 16).keyCnt = 16 ∧ (loaded 16 16).dinCnt = 16 := by decide

theorem witness_RejectedStartUpdatesExactlyFour :
    (loaded 16 16).phase = .idle ∧ isStart 0x6005 = true ∧
    startCheck (loaded 16 16) (ctrlMode (busWdata 0x6005)) ≠ .none := by decide

/-- 16 and 16 pushes and CTRL 0x01: no clause but the last applies. -/
theorem witness_StartReportsTheLengthsPushed :
    (hosted (loaded 0 0) (pushes 16 16 ++ [cyc 0x6001])).phase = .idle ∧
    (hosted (loaded 0 0) (pushes 16 16 ++ [cyc 0x6001])).keyCnt = 0 ∧
    (hosted (loaded 0 0) (pushes 16 16 ++ [cyc 0x6001])).dinCnt = 0 ∧
    (hosted (loaded 0 0) (pushes 16 16 ++ [cyc 0x6001])).host = pushes 16 16 ++ cyc 0x6001 :: [] ∧
    loading (pushes 16 16) ∧ (cyc 0x6001).rst = false ∧ isStart (cyc 0x6001).word = true := by
  unfold loading; decide

/-- The lengths at the ends of the other clauses. -/
theorem witness_StartReportsTheLengthsPushed_clauses :
    loading (pushes 15 16) ∧ (writtenTo 0x04 (pushes 15 16)).length ≠ 16 ∧
    loading (pushes 17 16) ∧ (writtenTo 0x04 (pushes 17 16)).length ≠ 16 ∧
    loading (pushes 16 17) ∧ (writtenTo 0x04 (pushes 16 17)).length = 16 ∧ (writtenTo 0x05 (pushes 16 17)).length ≠ 16 ∧
    (ctrlMode (busWdata 0x6005)).getLsbD 1 = true := by
  unfold loading; decide

/-- A state of R31 in IDLE, after a call. -/
theorem inv_done : Inv { State.reset with done := true, upc := 50 } where
  keyCnt_le := by decide
  dinCnt_le := by decide
  run_upc := by decide
  run_clear := by decide
  done_noErr := by decide
  run_sched h := absurd h (by decide)

/-- A state of R31 in RUN, right after an accepted START. -/
theorem inv_run : Inv (hosted (running 0 (hx 7)) [cyc 0x64aa]) where
  keyCnt_le := by decide
  dinCnt_le := by decide
  run_upc := by decide
  run_clear := by decide
  done_noErr := by decide
  run_sched _ := by unfold schedReady; decide

theorem witness_StatusTakesSixValues :
    Inv { State.reset with done := true, upc := 50 } ∧ Inv (hosted (running 0 (hx 7)) [cyc 0x64aa]) := ⟨inv_done, inv_run⟩

theorem witness_BusReadByAddress : (0x06 : BusAddr) ≤ 0x0F ∧ (0x0F : BusAddr) ≤ 0x0F := by decide

theorem witness_MixColumnsMicroOp :
    ∀ r : Fin 4, cell (hx 0xc6c6c6c6000000000000000000000000) r 0 = 0xc6 := by decide

theorem witness_RoundMicroOpsAreInvisibleOnTheBus :
    ∃ t, Instr.format .mc = .uop ∧ Instr.mc ≠ .out ∧ exec .mc (running 13 (hx 1)) = .next t :=
  ⟨_, by decide, by decide, rfl⟩

theorem witness_KeyExpansionMicroOp : (0 : Fin 11) ≠ (9 : Fin 10).succ := by decide

theorem witness_SboxIsTheAffineMapOfTheInverse : gfMultiply 0x53 0xca = 1 ∧ gfMultiply 1 1 = 1 := by decide

theorem witness_GfMultiplyLaws : (0x01 : Byte) ≠ 0 ∧ (0xff : Byte) ≠ 0 := by decide

theorem witness_XtimeReducesOnOverflow : 0x80 ≤ (0x80 : Byte).toNat ∧ ¬ 0x80 ≤ (0x7f : Byte).toNat := by decide

theorem witness_MicroProgramListing : 10 ≤ (10 : Fin 51).val ∧ (prog .decrypt)[(50 : Fin 51)] = 0x90 := by decide

theorem witness_ResetEdgeEstablishesTheInvariant :
    ∃ t, (hosted (running 63 (hx 9)) [rstCycle]).host = rstCycle :: [] ∧ rstCycle.rst = true ∧
      step (hosted (running 63 (hx 9)) [rstCycle]) = .next t := ⟨_, rfl, rfl, rfl⟩

theorem witness_StepKeepsTheInvariant :
    ∃ t, Inv (hosted (running 0 (hx 7)) [cyc 0x64aa]) ∧ step (hosted (running 0 (hx 7)) [cyc 0x64aa]) = .next t :=
  ⟨_, inv_run, rfl⟩

theorem witness_NoRunFromTheInvariantStops : Inv (hosted (running 0 (hx 7)) [cyc 0x64aa]) := inv_run

/-- Reset, no START in IDLE, and the two ends of RUN. -/
theorem witness_PhaseTransitions :
    (∃ t, step (hosted (running 3 (hx 7)) [rstCycle]) = .next t ∧ rstCycle.rst = true) ∧
    (∃ t, step (hosted (loaded 3 0) [cyc 0x6411]) = .next t ∧ (loaded 3 0).phase = .idle ∧ isStart 0x6411 = false) ∧
    (∃ t, step (hosted (running 0 (hx 7)) [cyc 0x6001]) = .next t ∧ (running 0 (hx 7)).phase = .run) ∧
    (∃ t, step (hosted (running 49 (hx 7)) [cyc 0]) = .next t ∧ (running 49 (hx 7)).upc.toNat < 50) ∧
    (∃ t, step (hosted (running 50 (hx 7)) [cyc 0]) = .next t ∧ (running 50 (hx 7)).upc = 50) :=
  ⟨⟨_, rfl, rfl⟩, ⟨_, rfl, rfl, by decide⟩, ⟨_, rfl, rfl⟩, ⟨_, rfl, by decide⟩, ⟨_, rfl, rfl⟩⟩

/-- An accepted and a rejected START. -/
theorem witness_PhaseTransitions_start :
    (∃ t, step (hosted (loaded 16 16) [cyc 0x6003]) = .next t ∧ isStart 0x6003 = true ∧
      startCheck (loaded 16 16) (ctrlMode (busWdata 0x6003)) = .none) ∧
    (∃ t, step (hosted (loaded 0 0) [cyc 0x6003]) = .next t ∧
      startCheck (loaded 0 0) (ctrlMode (busWdata 0x6003)) ≠ .none) :=
  ⟨⟨_, rfl, by decide, by decide⟩, ⟨_, rfl, by decide⟩⟩

theorem witness_HostWritesAreIgnoredInRun :
    (running 50 (hx 7)).phase = .run ∧ isRead 0x64aa = false ∧ isRead 0x6001 = false ∧
    ∃ t, step (hosted (running 50 (hx 7)) [cyc 0x4100]) = .next t := ⟨rfl, by decide, by decide, _, rfl⟩

theorem witness_DoutChangesOnlyAtOutAndReset :
    (∃ t, step (hosted (running 50 (hx 7)) [cyc 0]) = .next t ∧ t.dout ≠ (running 50 (hx 7)).dout) ∧
    (∃ t, step (hosted { State.reset with dout := hx 7 } [rstCycle]) = .next t ∧ t.dout ≠ hx 7) :=
  ⟨⟨_, rfl, by decide⟩, ⟨_, rfl, by decide⟩⟩

/-- Each of the four changes, at a rejected START after a call, and DONE set at OUT. -/
theorem witness_FlagsAndCountsClearOnlyAtStartOrReset :
    (∃ t, step (hosted { loaded 17 17 with done := true } [cyc 0x6001]) = .next t ∧
      t.err ≠ .none ∧ t.done = false ∧ t.keyCnt.toNat < 17 ∧ t.dinCnt.toNat < 17) ∧
    (loaded 17 17).keyCnt.toNat ≤ 17 ∧ (loaded 17 17).dinCnt.toNat ≤ 17 ∧
    (∃ t, step (hosted (running 50 (hx 7)) [cyc 0]) = .next t ∧ (running 50 (hx 7)).done = false ∧ t.done = true) :=
  ⟨⟨_, rfl, by decide⟩, by decide, by decide, ⟨_, rfl, rfl, rfl⟩⟩

theorem witness_LoadsAreNotKept :
    (∃ t, step (hosted (loaded 17 17) [cyc 0x6001]) = .next t ∧ isStart 0x6001 = true) ∧
    (∃ t, step (hosted (loaded 17 17) [cyc 0x6411]) = .next t ∧ isStart 0x6411 = false ∧
      (loaded 17 17).keyCnt = 17 ∧ (loaded 17 17).dinCnt = 17) := ⟨⟨_, rfl, by decide⟩, ⟨_, rfl, by decide⟩⟩

theorem witness_ScheduleIsReadOnlyInRounds :
    (∃ t, step (hosted (running 9 (hx 7)) [cyc 0x64aa]) = .next t ∧ (running 9 (hx 7)).phase = .run) ∧
    (∃ t, step (hosted (running 10 (hx 7)) [cyc 0x64aa]) = .next t ∧ 10 ≤ (running 10 (hx 7)).upc.toNat) :=
  ⟨⟨_, rfl, rfl⟩, ⟨_, rfl, by decide⟩⟩

theorem witness_EveryCallEndsOnTime :
    (hosted (loaded 16 16) [cyc 0x6001, cyc 0x64aa]).phase = .idle ∧
    (hosted (loaded 16 16) [cyc 0x6001, cyc 0x64aa]).host = cyc 0x6001 :: [cyc 0x64aa] ∧ (cyc 0x6001).rst = false ∧
    isStart (cyc 0x6001).word = true ∧ startCheck (loaded 16 16) (ctrlMode (busWdata 0x6001)) = .none ∧
    noReset ([cyc 0x64aa].take 51) ∧ 0 < 51 ∧ 50 < 51 ∧
    (running 0 (hx 7)).phase = .run ∧ (running 0 (hx 7)).upc.toNat ≤ 50 ∧ (running 50 (hx 7)).upc.toNat ≤ 50 := by
  unfold noReset; decide

theorem witness_RunComputesTheCipher :
    (running 0 (hx 7)).phase = .run ∧ (running 0 (hx 7)).upc = 0 ∧
    noReset ((hosted (running 0 (hx 7)) [cyc 0x64aa, cyc 0x6003]).host.take 51) := by
  unfold noReset; decide

/-- A load in which the two buffers interleave with a read, for a decryption. -/
theorem witness_CallResultIsAesOfTheBytesPushed :
    (hosted (loaded 0 0) (pushes 8 16 ++ cyc 0x4200 :: pushes 8 0 ++ [cyc 0x6003])).host =
      (pushes 8 16 ++ cyc 0x4200 :: pushes 8 0) ++ cyc 0x6003 :: [] ∧
    (loaded 0 0).phase = .idle ∧ (loaded 0 0).keyCnt = 0 ∧ (loaded 0 0).dinCnt = 0 ∧
    loading (pushes 8 16 ++ cyc 0x4200 :: pushes 8 0) ∧
    writtenTo 0x04 (pushes 8 16 ++ cyc 0x4200 :: pushes 8 0) = Block.zero.toList ∧
    writtenTo 0x05 (pushes 8 16 ++ cyc 0x4200 :: pushes 8 0) = Block.zero.toList ∧
    (cyc 0x6003).rst = false ∧ isStart (cyc 0x6003).word = true ∧
    ctrlMode (busWdata (cyc 0x6003).word) = modeField .decrypt ∧ noReset (List.take 51 []) := by
  unfold loading noReset; decide

/-- Two IDLE states that differ in what an earlier call left in STATE, SCHED, MODE_R and UPC. -/
theorem witness_HiddenStateNeverReachesTheHost :
    SameView (loaded 0 0)
      { loaded 0 0 with state := hx 5, sched := State.reset.sched.set 3 (hx 6), modeR := .decrypt, upc := 50 } where
  host := rfl
  phase := rfl
  dout := rfl
  done := rfl
  err := rfl
  keyCnt := rfl
  dinCnt := rfl
  loadedKey := by decide
  loadedBlock := by decide
  call h := absurd h (by decide)

end Sys2Proof.Tests
end

section
/-! The rows of the opcode table (R76). Every instruction's word lies in the instruction's row, every bus word is the
word of the operation it decodes to, and two bus rows that share a word are one row. -/

namespace Sys2Proof

/-! ### Rows by their fields -/

/-- A conjunction of bus words goes field by field. -/
theorem mkBusWord_and (sel we sel' we' : Bool) (a a' : BusAddr) (d d' : Byte) :
    mkBusWord sel we a d &&& mkBusWord sel' we' a' d' = mkBusWord (sel && sel') (we && we') (a &&& a') (d &&& d') := by
  unfold mkBusWord
  rw [← BitVec.ofBool_and_ofBool, ← BitVec.ofBool_and_ofBool, ← BitVec.and_append, ← BitVec.and_append,
    ← BitVec.and_append]

theorem holds_bus_iff (r : OpcodeRow) (w : BusWord) :
    r.holds (.bus w) = true ↔ r.format = .bus ∧ w &&& r.mask = r.pattern := by
  simp [OpcodeRow.holds]

/-- A row written by its fields, as in the table of R76: `pa` under the mask `ma` for the address and `pd` under `md`
for the data. -/
theorem holds_mkBusWord {sel we : Bool} {a : BusAddr} {d : Byte} (pa ma : BusAddr) (pd md : Byte)
    (ha : a &&& ma = pa) (hd : d &&& md = pd) :
    OpcodeRow.holds ⟨.bus, mkBusWord sel we pa pd, mkBusWord true true ma md⟩ (.bus (mkBusWord sel we a d)) = true := by
  rw [holds_bus_iff, mkBusWord_and, ha, hd, Bool.and_true, Bool.and_true]
  exact ⟨rfl, rfl⟩

/-- A row that leaves the data free. -/
theorem holds_mkBusWord_anyData {sel we : Bool} {a : BusAddr} {d : Byte} (pa ma : BusAddr) (ha : a &&& ma = pa) :
    OpcodeRow.holds ⟨.bus, mkBusWord sel we pa 0, mkBusWord true true ma 0⟩ (.bus (mkBusWord sel we a d)) = true :=
  holds_mkBusWord pa ma 0 0 ha BitVec.and_zero

/-- The word of an instruction lies in the instruction's row, whatever its operands (R76, R77). -/
theorem row_holds_encode (i : Instr) : i.row.holds (encode i) = true := by
  cases i
  case busIdle x =>
    rw [encode, holds_bus_iff]
    refine ⟨rfl, ?_⟩
    show (0#1 ++ x) &&& (1#1 ++ 0#14) = 0#15
    rw [BitVec.and_append, BitVec.and_zero]
    rfl
  case wrCtrlNop x => exact holds_mkBusWord 0x00 0x1f 0x00 0x01 rfl (by revert x; decide)
  case startEnc x => exact holds_mkBusWord 0x00 0x1f 0x01 0x07 rfl (by revert x; decide)
  case startDec x => exact holds_mkBusWord 0x00 0x1f 0x03 0x07 rfl (by revert x; decide)
  case startBadmode x m => exact holds_mkBusWord 0x00 0x1f 0x05 0x05 rfl (by revert x m; decide)
  case wrCount a d => exact holds_mkBusWord_anyData 0x02 0x1e (by revert a; decide)
  case wrRsvd06 a d | rdRsvd06 a d => exact holds_mkBusWord_anyData 0x06 0x1e (by revert a; decide)
  case wrRsvd08 a d | rdRsvd08 a d => exact holds_mkBusWord_anyData 0x08 0x18 (by revert a; decide)
  case wrDout a d | rdDout a d => exact holds_mkBusWord_anyData 0x10 0x10 (by revert a; decide)
  case rdCtrl d => exact holds_mkBusWord_anyData 0x00 0x1f rfl
  case wrStatus d | rdStatus d => exact holds_mkBusWord_anyData 0x01 0x1f rfl
  case rdKeyCount d => exact holds_mkBusWord_anyData 0x02 0x1f rfl
  case rdDinCount d => exact holds_mkBusWord_anyData 0x03 0x1f rfl
  case wrKeyData d | rdKeyData d => exact holds_mkBusWord_anyData 0x04 0x1f rfl
  case wrDinData d | rdDinData d => exact holds_mkBusWord_anyData 0x05 0x1f rfl
  case keyexp k | ark k => revert k; decide
  case sb | isb | sr | isr | mc | imc | out => rfl

/-- The row of a bus operation is one of the 21. -/
theorem row_mem_busRows {i : Instr} (h : i.format = .bus) : i.row ∈ busRows := by
  cases i
  case keyexp | ark | sb | isb | sr | isr | mc | imc | out => cases h
  all_goals simp [busRows, Instr.row]

/-! ### A bus word is the word of its operation -/

/-- Address 0x08 to 0x0F from the 3 bits that WR_RSVD_08 and RD_RSVD_08 carry. -/
theorem append_low3 : ∀ a : BusAddr, 0x08 ≤ a → a < 0x10 → 0b01#2 ++ a.extractLsb' 0 3 = a := by decide

/-- Address 0x10 to 0x1F from the 4 bits that WR_DOUT and RD_DOUT carry. -/
theorem append_low4 : ∀ a : BusAddr, 0x10 ≤ a → 0b1#1 ++ a.extractLsb' 0 4 = a := by decide

/-- A word with `sel = 0` from the 14 bits that BUS_IDLE carries. -/
theorem append_low14 {w : BusWord} (h : busSel w = false) : 0b0#1 ++ w.extractLsb' 0 14 = w := by
  apply BitVec.eq_of_getLsbD_eq
  intro i hi
  rw [BitVec.getLsbD_append, BitVec.getLsbD_extractLsb']
  by_cases h14 : i < 14
  · simp [h14]
  · obtain rfl : i = 14 := by omega
    simpa [busSel] using h.symm

/-- A CTRL write, over the 256 data bytes. -/
theorem encode_decodeCtrl : ∀ d : Byte, encode (decodeCtrl d) = encodeWrite 0x00 d := by decide

theorem encode_decodeWrite (a : BusAddr) (d : Byte) : encode (decodeWrite a d) = encodeWrite a d := by
  unfold decodeWrite
  split_ifs with h0 h1 h2 h4 h5 h6 h8
  · rw [encode_decodeCtrl, h0]
  · rw [encode, h1]
  · rcases h2 with rfl | rfl <;> rfl
  · rw [encode, h4]
  · rw [encode, h5]
  · rcases h6 with rfl | rfl <;> rfl
  · rw [encode, append_low3 a (by bv_omega) h8]
  · rw [encode, append_low4 a (by bv_omega)]

theorem encode_decodeRead (a : BusAddr) (d : Byte) : encode (decodeRead a d) = encodeRead a d := by
  unfold decodeRead
  split_ifs with h0 h1 h2 h3 h4 h5 h6 h8
  · rw [encode, h0]
  · rw [encode, h1]
  · rw [encode, h2]
  · rw [encode, h3]
  · rw [encode, h4]
  · rw [encode, h5]
  · rcases h6 with rfl | rfl <;> rfl
  · rw [encode, append_low3 a (by bv_omega) h8]
  · rw [encode, append_low4 a (by bv_omega)]

/-- No bit of a bus word is lost in decoding it (log 11). -/
theorem encode_decodeBus (w : BusWord) : encode (decodeBus w) = .bus w := by
  rcases decodeBus_cases w with ⟨hsel, h⟩ | ⟨hsel, hwe, h⟩ | ⟨hsel, hwe, h⟩
  · rw [h, encode, append_low14 hsel]
  · have hw := mkBusWord_fields w
    rw [hsel, hwe] at hw
    rw [h, encode_decodeWrite, encodeWrite, hw]
  · have hw := mkBusWord_fields w
    rw [hsel, hwe] at hw
    rw [h, encode_decodeRead, encodeRead, hw]

theorem format_of_encode_bus {i : Instr} {w : BusWord} (h : encode i = .bus w) : i.format = .bus := by
  cases i
  case keyexp | ark | sb | isb | sr | isr | mc | imc | out => cases h
  all_goals rfl

/-! ### Disjointness -/

/-- The patterns of two different bus rows differ in a bit that both masks read. -/
theorem busRows_eq_of_patterns_agree :
    ∀ r ∈ busRows, ∀ r' ∈ busRows, r.pattern &&& r'.mask = r'.pattern &&& r.mask → r = r' := by
  decide

/-- Two bus rows that hold one word are the same row (R76). -/
theorem busRows_disjoint {r r' : OpcodeRow} {w : BusWord} (hr : r ∈ busRows) (hr' : r' ∈ busRows)
    (h : r.holds (.bus w) = true) (h' : r'.holds (.bus w) = true) : r = r' := by
  obtain ⟨-, hw⟩ := (holds_bus_iff r w).1 h
  obtain ⟨-, hw'⟩ := (holds_bus_iff r' w).1 h'
  apply busRows_eq_of_patterns_agree r hr r' hr'
  calc r.pattern &&& r'.mask = w &&& r.mask &&& r'.mask := by rw [hw]
    _ = w &&& r'.mask &&& r.mask := by ac_rfl
    _ = r'.pattern &&& r.mask := by rw [hw']

/-- Settles O3: the word is the encoding of its operation, so it lies in that operation's row, and no other row shares
a word with it. -/
theorem everyBusWordIsInExactlyOneRow : Obligations.EveryBusWordIsInExactlyOneRow := by
  intro w
  have hword : encode (decodeBus w) = .bus w := encode_decodeBus w
  have hmem : (decodeBus w).row ∈ busRows := row_mem_busRows (format_of_encode_bus hword)
  have hholds : (decodeBus w).row.holds (.bus w) = true := hword ▸ row_holds_encode (decodeBus w)
  exact ⟨hmem, fun r hr => ⟨fun h => busRows_disjoint hr hmem h hholds, fun h => h ▸ hholds⟩⟩

end Sys2Proof
end

section
/-! The substitution boxes (R104). -/

namespace Sys2Proof.Machine

/-- One direction of R104, entry by entry over the 256 bytes. -/
@[simp] theorem invSbox_sbox : ∀ x : Byte, invSbox (sbox x) = x := by decide

/-- The other direction of R104: on the finite set of bytes, a left inverse is a right inverse. -/
@[simp] theorem sbox_invSbox (x : Byte) : sbox (invSbox x) = x :=
  Function.LeftInverse.rightInverse_of_card_le invSbox_sbox le_rfl x

/-- No entry of `SBOX` is its own index. -/
theorem sbox_ne_self : ∀ x : Byte, sbox x ≠ x := by decide

/-- Settles O37: `INV_SBOX` undoes `SBOX` at every entry, hence also the other way round, and no entry is fixed. -/
theorem substitutionBoxesAreInverse : Obligations.SubstitutionBoxesAreInverse :=
  fun x => ⟨invSbox_sbox x, sbox_invSbox x, sbox_ne_self x⟩

end Sys2Proof.Machine
end

section
/-! The multiplier of R120 as the ring GF(2)[X] modulo x^8+x^4+x^3+x+1. A byte denotes a residue class, XOR is addition,
`xtime` is multiplication by x, the loop is multiplication, and different bytes denote different classes. So the laws of
R123 are those of a commutative ring, read back through the injection; only the inverse is a fact about this modulus. -/

namespace Sys2Proof.Machine

open Polynomial Finset

/-! ### Bytes as polynomials -/

/-- There is no coefficient above bit 7, because a byte has no bit there. -/
@[simp] theorem coeff_bytePoly (a : Byte) (k : Nat) : (bytePoly a).coeff k = if a.getLsbD k then 1 else 0 := by
  have hsum : (bytePoly a).coeff k = ∑ i ∈ range 8, if k = i then (if a.getLsbD k then 1 else 0) else 0 := by
    rw [bytePoly, finsetSum_coeff]
    refine sum_congr rfl fun i _ => ?_
    by_cases hki : k = i
    · subst hki
      cases a.getLsbD k <;> simp
    · cases a.getLsbD i <;> simp [coeff_X_pow, hki]
  rw [hsum, sum_ite_eq]
  by_cases hk : k < 8
  · simp [hk]
  · simp [hk, BitVec.getLsbD_of_ge a k (by omega)]

@[simp] theorem bytePoly_zero : bytePoly 0#8 = 0 := by
  ext k
  simp

@[simp] theorem bytePoly_one : bytePoly 1#8 = 1 := by
  simp [bytePoly]

@[simp] theorem bytePoly_two : bytePoly 2#8 = X := by
  simp [bytePoly, sum_range_succ]

/-- Field addition is XOR (R122): coefficients add modulo 2. -/
@[simp] theorem bytePoly_xor (a b : Byte) : bytePoly (a ^^^ b) = bytePoly a + bytePoly b := by
  ext k
  rw [coeff_add, coeff_bytePoly, coeff_bytePoly, coeff_bytePoly, BitVec.getLsbD_xor]
  cases a.getLsbD k <;> cases b.getLsbD k <;> simp [CharTwo.add_self_eq_zero]

theorem bytePoly_injective : Function.Injective bytePoly := by
  intro a b h
  apply BitVec.eq_of_getLsbD_eq
  intro k _
  have hk := congrArg (coeff · k) h
  simp only [coeff_bytePoly] at hk
  cases ha : a.getLsbD k <;> cases hb : b.getLsbD k <;> simp [ha, hb] at hk ⊢

theorem degree_bytePoly_lt (a : Byte) : (bytePoly a).degree < 8 :=
  (degree_lt_iff_coeff_zero _ 8).2 fun k hk => by simp [BitVec.getLsbD_of_ge a k hk]

theorem degree_fieldPoly : fieldPoly.degree = 8 := by
  unfold fieldPoly
  compute_degree!

/-- The shift multiplies by x, except that the term x^8 is lost. -/
theorem bytePoly_shiftLeft_one (a : Byte) :
    bytePoly (a <<< 1) = X * bytePoly a + if a.getLsbD 7 then X ^ 8 else 0 := by
  ext k
  rw [coeff_add, coeff_bytePoly, BitVec.getLsbD_shiftLeft]
  cases k with
  | zero => cases a.getLsbD 7 <;> simp
  | succ k =>
    rw [coeff_X_mul, coeff_bytePoly]
    rcases lt_trichotomy k 7 with hk | rfl | hk
    · cases a.getLsbD 7 <;> simp [coeff_X_pow, show k + 1 < 8 by omega, hk.ne]
    · cases a.getLsbD 7 <;> simp [CharTwo.add_self_eq_zero]
    · cases a.getLsbD 7 <;> simp [coeff_X_pow, hk.ne', BitVec.getLsbD_of_ge a k hk]

/-- R121: `0x1B` is the low byte of the modulus, and the bit-8 term cancels the bit shifted out. -/
theorem bytePoly_xtime (a : Byte) : bytePoly (xtime a) = X * bytePoly a + if a.getLsbD 7 then fieldPoly else 0 := by
  have hlow : fieldPoly = X ^ 8 + bytePoly 0x1B := by
    simp [fieldPoly, bytePoly, sum_range_succ]
    ring
  rw [xtime, bytePoly_xor, bytePoly_shiftLeft_one, hlow]
  cases a.getLsbD 7
  · simp
  · simp [add_assoc]

/-! ### Bytes as residue classes -/

/-- The residue class modulo x^8+x^4+x^3+x+1 that a byte denotes. -/
noncomputable def residue (a : Byte) : AdjoinRoot fieldPoly := AdjoinRoot.mk fieldPoly (bytePoly a)

@[simp] theorem residue_zero : residue 0#8 = 0 := by simp [residue]

@[simp] theorem residue_one : residue 1#8 = 1 := by simp [residue]

@[simp] theorem residue_two : residue 2#8 = AdjoinRoot.root fieldPoly := by simp [residue]

@[simp] theorem residue_xor (a b : Byte) : residue (a ^^^ b) = residue a + residue b := by simp [residue]

@[simp] theorem residue_xtime (a : Byte) : residue (xtime a) = AdjoinRoot.root fieldPoly * residue a := by
  rw [residue, bytePoly_xtime]
  cases a.getLsbD 7 <;> simp [residue]

/-- Every byte is reduced already: its degree is below that of the modulus. -/
theorem residue_injective : Function.Injective residue := by
  intro a b h
  have hdvd : fieldPoly ∣ bytePoly a - bytePoly b := AdjoinRoot.mk_eq_mk.1 h
  have hdeg : (bytePoly a - bytePoly b).degree < fieldPoly.degree := by
    rw [degree_fieldPoly]
    exact (degree_sub_le _ _).trans_lt (max_lt (degree_bytePoly_lt a) (degree_bytePoly_lt b))
  exact bytePoly_injective (sub_eq_zero.1 (eq_zero_of_dvd_of_degree_lt hdvd hdeg))

/-- The residue class of a byte, as the powers of x that its bits select. -/
theorem residue_eq_sum (a : Byte) :
    residue a = ∑ i ∈ range 8, if a.getLsbD i then AdjoinRoot.root fieldPoly ^ i else 0 := by
  rw [residue, bytePoly, map_sum]
  refine sum_congr rfl fun i _ => ?_
  cases a.getLsbD i <;> simp

/-- The loop of R120 from bit `j` on: iteration `i` adds `x^i` times the multiplicand when bit `j + i` of `b` is set. -/
theorem residue_gfLoop (b : Byte) (n j : Nat) (acc a : Byte) :
    residue (gfLoop b (List.range' j n) acc a) =
      residue acc + residue a * ∑ i ∈ range n, if b.getLsbD (j + i) then AdjoinRoot.root fieldPoly ^ i else 0 := by
  induction n generalizing j acc a with
  | zero => simp [gfLoop]
  | succ n ih =>
    have hshift : (∑ i ∈ range n, if b.getLsbD (j + (i + 1)) then AdjoinRoot.root fieldPoly ^ (i + 1) else 0) =
        AdjoinRoot.root fieldPoly *
          ∑ i ∈ range n, if b.getLsbD (j + 1 + i) then AdjoinRoot.root fieldPoly ^ i else 0 := by
      rw [mul_sum]
      refine sum_congr rfl fun i _ => ?_
      rw [show j + (i + 1) = j + 1 + i by omega, mul_ite, mul_zero, pow_succ']
    rw [List.range'_succ, gfLoop, ih, residue_xtime, sum_range_succ', hshift, add_zero]
    cases b.getLsbD j
    · simp only [Bool.false_eq_true, if_false]
      ring
    · simp only [if_true, residue_xor]
      ring

@[simp] theorem residue_gfMultiply (a b : Byte) : residue (gfMultiply a b) = residue a * residue b := by
  calc residue (gfMultiply a b)
      = residue (gfLoop b (List.range' 0 8) 0#8 a) := rfl
    _ = residue a * residue b := by
      rw [residue_gfLoop, residue_zero, zero_add, residue_eq_sum b]
      simp only [zero_add]

/-- Settles O39: equal residue classes are polynomials that differ by a multiple of the modulus. -/
theorem gfMultiplyIsFieldMultiplication : Obligations.GfMultiplyIsFieldMultiplication := by
  intro a b
  rw [← AdjoinRoot.mk_eq_mk, map_mul]
  exact (residue_gfMultiply a b).symm

/-! ### The laws -/

theorem gfMultiply_comm (a b : Byte) : gfMultiply a b = gfMultiply b a :=
  residue_injective (by simp [mul_comm])

theorem gfMultiply_assoc (a b c : Byte) : gfMultiply (gfMultiply a b) c = gfMultiply a (gfMultiply b c) :=
  residue_injective (by simp [mul_assoc])

@[simp] theorem gfMultiply_zero (a : Byte) : gfMultiply a 0#8 = 0#8 :=
  residue_injective (by simp)

@[simp] theorem gfMultiply_one (a : Byte) : gfMultiply a 1#8 = a :=
  residue_injective (by simp)

@[simp] theorem gfMultiply_two (a : Byte) : gfMultiply a 2#8 = xtime a :=
  residue_injective (by simp [mul_comm])

theorem gfMultiply_xor (a b c : Byte) : gfMultiply a (b ^^^ c) = gfMultiply a b ^^^ gfMultiply a c :=
  residue_injective (by simp [mul_add])

/-- The inverse of a nonzero byte, read off SBOX: the affine map of 40_constant_tables.md section 1, undone. -/
def gfInverse (a : Byte) : Byte :=
  (sbox a).rotateLeft 1 ^^^ (sbox a).rotateLeft 3 ^^^ (sbox a).rotateLeft 6 ^^^ 0x05

/-- Every nonzero byte has an inverse, byte by byte. -/
theorem gfMultiply_gfInverse : ∀ a : Byte, a ≠ 0 → gfMultiply a (gfInverse a) = 1 := by decide

/-- A byte has at most one inverse, as in every commutative monoid. -/
theorem gfMultiply_inverse_unique {a b c : Byte} (hb : gfMultiply a b = 1) (hc : gfMultiply a c = 1) : b = c := by
  have residue_mul {x : Byte} (hx : gfMultiply a x = 1) : residue a * residue x = 1 := by
    rw [← residue_gfMultiply, hx]
    exact residue_one
  apply residue_injective
  exact left_inv_eq_right_inv ((mul_comm _ _).trans (residue_mul hb)) (residue_mul hc)

/-- Settles O41: the laws of the ring of residue classes, and for a nonzero byte the one inverse. -/
theorem gfMultiplyLaws : Obligations.GfMultiplyLaws :=
  ⟨gfMultiply_comm, gfMultiply_zero, gfMultiply_one, gfMultiply_xor, gfMultiply_assoc,
    fun a ha => ⟨gfInverse a, gfMultiply_gfInverse a ha, fun _ hb =>
      gfMultiply_inverse_unique hb (gfMultiply_gfInverse a ha)⟩,
    by decide⟩

/-! ### Doubling -/

theorem shiftLeft_one_eq_ofNat (a : Byte) : a <<< 1 = BitVec.ofNat 8 (2 * a.toNat) := by
  apply BitVec.eq_of_toNat_eq
  rw [BitVec.toNat_shiftLeft, BitVec.toNat_ofNat, Nat.shiftLeft_eq, pow_one, mul_comm]

/-- Bit 7 is the sign bit of a byte. -/
theorem getLsbD_seven_iff (a : Byte) : a.getLsbD 7 = true ↔ 0x80 ≤ a.toNat := by
  simpa [BitVec.msb_eq_getLsbD_last] using congrArg (· = true) (BitVec.msb_eq_decide a)

/-- Settles O40: the shift is the low byte of `2a`, bit 7 is set from 0x80 on, and 0x02 denotes x. -/
theorem xtimeReducesOnOverflow : Obligations.XtimeReducesOnOverflow := by
  intro a
  refine ⟨?_, (gfMultiply_two a).symm⟩
  simp only [xtime, shiftLeft_one_eq_ofNat, getLsbD_seven_iff]

end Sys2Proof.Machine
end

section
/-! The key schedule by rounds (R131). The word loop of R130 and ExpandRound obey the same two equations between words: the
first word of a round key takes the round constant, and every further word takes the word before it. -/

namespace Sys2Proof.Machine

/-! ### Words -/

/-- Two blocks are equal if their 4 words are (R12). -/
theorem block_ext_word {a b : Block} (h : ∀ j : Fin 4, wordOf a j = wordOf b j) : a = b := by
  rw [← ofWords_wordOf a, ← ofWords_wordOf b, funext h]

@[simp] theorem subWord_get (a : KeyWord) (i : Nat) (h : i < 4) : (subWord a)[i] = sbox a[i] := by
  simp [subWord]

@[simp] theorem wordOf_roundKey (key : Block) (r : Nat) (j : Fin 4) :
    wordOf (roundKey key r) j = scheduleWord key (4 * r + j.val) :=
  wordOf_ofWords _ j

/-! ### The word loop -/

/-- The loop of R130 starts with the words of the key. -/
theorem scheduleWord_of_lt_four (key : Block) (j : Fin 4) : scheduleWord key j.val = wordOf key j := by
  fin_cases j <;> rfl

/-- An index that 4 divides: the only one of its round, and the round is the index of its constant (R131). -/
theorem scheduleWord_first (key : Block) (r : Nat) :
    scheduleWord key (4 * (r + 1)) =
      KeyWord.xor (scheduleWord key (4 * r)) (addRcon (r + 1) (subWord (rotWord (scheduleWord key (4 * r + 3))))) := by
  rw [show 4 * (r + 1) = 4 * r + 4 by omega, scheduleWord, if_pos (by omega), show (4 * r + 4) / 4 = r + 1 by omega]

/-- The three other indices of a round. -/
theorem scheduleWord_further (key : Block) (r : Nat) (j : Fin 3) :
    scheduleWord key (4 * (r + 1) + (j.val + 1)) =
      KeyWord.xor (scheduleWord key (4 * r + (j.val + 1))) (scheduleWord key (4 * (r + 1) + j.val)) := by
  have hj := j.isLt
  rw [show 4 * (r + 1) + (j.val + 1) = 4 * r + (j.val + 1) + 4 by omega, scheduleWord, if_neg (by omega),
    show 4 * r + (j.val + 1) + 3 = 4 * (r + 1) + j.val by omega]

/-! ### ExpandRound -/

theorem wordOf_expandRound_zero (p : Block) (k : Nat) :
    wordOf (expandRound p k) 0 = KeyWord.xor (wordOf p 0) (addRcon k (subWord (rotWord (wordOf p 3)))) :=
  wordOf_ofWords _ 0

theorem wordOf_expandRound_succ (p : Block) (k : Nat) (j : Fin 3) :
    wordOf (expandRound p k) j.succ = KeyWord.xor (wordOf p j.succ) (wordOf (expandRound p k) j.castSucc) := by
  rw [expandRound, wordOf_ofWords, wordOf_ofWords]
  fin_cases j <;> rfl

/-- The bytes of the first word. -/
theorem expandRound_get_of_lt_four (p : Block) (k i : Nat) (h : i < 4) :
    (expandRound p k)[i] = p[i] ^^^ (addRcon k (subWord (rotWord (wordOf p 3))))[i] := by
  simpa [h] using congrArg (·[i]) (wordOf_expandRound_zero p k)

/-- The bytes of the further words: byte `i + 4` stands in the word after that of byte `i`, at the same place. -/
theorem expandRound_get_add_four (p : Block) (k i : Nat) (h : i < 12) :
    (expandRound p k)[i + 4] = p[i + 4] ^^^ (expandRound p k)[i] := by
  have hword := wordOf_expandRound_succ p k ⟨i / 4, by omega⟩
  have hbyte := congrArg (·[i % 4]) hword
  simpa [show 4 * (i / 4 + 1) + i % 4 = i + 4 by omega, Nat.div_add_mod] using hbyte

/-- ExpandRound writes the next round key of R131, byte by byte, with the constant of its round. -/
theorem nextRoundKey_expandRound (p : Block) (k : Nat) : nextRoundKey (rcon k) p (expandRound p k) := by
  refine ⟨?_, ?_, ?_, ?_, fun i => expandRound_get_add_four p k i i.isLt⟩
  · rw [expandRound_get_of_lt_four p k 0 (by decide)]
    simp [addRcon, rotWord, BitVec.xor_assoc]
  · rw [expandRound_get_of_lt_four p k 1 (by decide)]
    simp [addRcon, rotWord]
  · rw [expandRound_get_of_lt_four p k 2 (by decide)]
    simp [addRcon, rotWord]
  · rw [expandRound_get_of_lt_four p k 3 (by decide)]
    simp [addRcon, rotWord]

/-- The constants of the rounds 1 to 10 (R105). -/
theorem rcon_succ (j : Fin 10) :
    rcon (j.val + 1) = (#v[0x01, 0x02, 0x04, 0x08, 0x10, 0x20, 0x40, 0x80, 0x1b, 0x36] : Vector Byte 10)[j] := by
  revert j
  decide

/-! ### The schedule by rounds -/

theorem roundKey_zero (key : Block) : roundKey key 0 = key :=
  block_ext_word fun j => by
    rw [wordOf_roundKey, Nat.mul_zero, Nat.zero_add, scheduleWord_of_lt_four]

/-- One round of the word loop is ExpandRound: the words agree from the first one on, each by the one before it. -/
theorem roundKey_succ (key : Block) (r : Nat) : roundKey key (r + 1) = expandRound (roundKey key r) (r + 1) := by
  apply block_ext_word
  intro j
  induction j using Fin.induction with
  | zero =>
    rw [wordOf_expandRound_zero, wordOf_roundKey, wordOf_roundKey, wordOf_roundKey]
    exact scheduleWord_first key r
  | succ j ih =>
    rw [wordOf_expandRound_succ, ← ih, wordOf_roundKey, wordOf_roundKey, wordOf_roundKey]
    exact scheduleWord_further key r j

/-- Settles O42: round key 0 is read off the key, each round of the word loop is ExpandRound, and the bytes are those of
ExpandRound under the round's constant. -/
theorem scheduleByRounds : Obligations.ScheduleByRounds := by
  refine fun key => ⟨roundKey_zero key, fun j => ⟨roundKey_succ key j, ?_⟩⟩
  rw [roundKey_succ, ← rcon_succ]
  exact nextRoundKey_expandRound (roundKey key j) (j + 1)

end Sys2Proof.Machine
end

section
/-! The round transforms on blocks (R148). SubBytes and ShiftRows are undone byte by byte and cell by cell. MixColumns is
a 4 by 4 matrix over the ring of residue classes that acts on each column, so it is undone because the product of the two
matrices of R145 and R146 is the identity. -/

namespace Sys2Proof.Machine

/-! ### Bytes and cells -/

@[simp] theorem invSubBytes_subBytes (b : Block) : invSubBytes (subBytes b) = b :=
  block_ext fun i => by simp

@[simp] theorem invShiftRows_shiftRows (b : Block) : invShiftRows (shiftRows b) = b :=
  block_ext_cell fun r c => by rw [cell_invShiftRows, cell_shiftRows, sub_add_cancel]

@[simp] theorem addRoundKey_addRoundKey (k b : Block) : addRoundKey k (addRoundKey k b) = b :=
  block_ext fun i => by simp

/-- The 16 cells of a block in the order of its bytes (R11). -/
theorem ofCells_eq (f : Fin 4 → Fin 4 → Byte) :
    ofCells f = #v[f 0 0, f 1 0, f 2 0, f 3 0, f 0 1, f 1 1, f 2 1, f 3 1, f 0 2, f 1 2, f 2 2, f 3 2,
      f 0 3, f 1 3, f 2 3, f 3 3] := by
  simp [ofCells, ← Vector.toArray_inj, Array.ofFn_succ]

/-- ShiftRows as the byte permutation of R143. -/
theorem shiftRows_eq (b : Block) :
    shiftRows b =
      #v[b[0], b[5], b[10], b[15], b[4], b[9], b[14], b[3], b[8], b[13], b[2], b[7], b[12], b[1], b[6], b[11]] :=
  ofCells_eq _

/-- InvShiftRows as the byte permutation of R144. -/
theorem invShiftRows_eq (b : Block) :
    invShiftRows b =
      #v[b[0], b[13], b[10], b[7], b[4], b[1], b[14], b[11], b[8], b[5], b[2], b[15], b[12], b[9], b[6], b[3]] :=
  ofCells_eq _

/-! ### Columns -/

/-- The matrix whose row 0 is `a`, over the residue classes. -/
noncomputable def columnMatrix (a : KeyWord) : Matrix (Fin 4) (Fin 4) (AdjoinRoot fieldPoly) :=
  .of fun r j => residue (circulant a r j)

/-- Column `c` of a block, as residue classes. -/
noncomputable def columnClasses (s : Block) (c : Fin 4) : Fin 4 → AdjoinRoot fieldPoly := fun r => residue (cell s r c)

theorem columnClasses_mulColumns (a : KeyWord) (s : Block) (c : Fin 4) :
    columnClasses (mulColumns a s) c = (columnMatrix a).mulVec (columnClasses s c) := by
  ext r
  simp only [columnClasses, columnMatrix, cell_mulColumns, residue_xor, residue_gfMultiply, Matrix.mulVec, dotProduct,
    Fin.sum_univ_four, Matrix.of_apply]

/-- Two blocks are equal if their columns denote the same residue classes. -/
theorem block_ext_columnClasses {a b : Block} (h : ∀ c, columnClasses a c = columnClasses b c) : a = b :=
  block_ext_cell fun r c => residue_injective (congrFun (h c) r)

/-- A matrix undoes another one on every block if their product is the identity. -/
theorem mulColumns_mulColumns {a b : KeyWord} (h : columnMatrix b * columnMatrix a = 1) (s : Block) :
    mulColumns b (mulColumns a s) = s :=
  block_ext_columnClasses fun c => by
    rw [columnClasses_mulColumns, columnClasses_mulColumns, Matrix.mulVec_mulVec, h, Matrix.one_mulVec]

/-- The product `M' M` of R146, entry by entry in bytes. -/
theorem columnMatrix_invMixRow_mul : columnMatrix invMixRow * columnMatrix mixRow = 1 := by
  have entry : ∀ r j : Fin 4,
      gfMultiply (circulant invMixRow r 0) (circulant mixRow 0 j) ^^^
        gfMultiply (circulant invMixRow r 1) (circulant mixRow 1 j) ^^^
        gfMultiply (circulant invMixRow r 2) (circulant mixRow 2 j) ^^^
        gfMultiply (circulant invMixRow r 3) (circulant mixRow 3 j) = if r = j then 1#8 else 0#8 := by decide
  ext r j
  simp only [columnMatrix, Matrix.mul_apply, Matrix.of_apply, Fin.sum_univ_four, ← residue_gfMultiply, ← residue_xor,
    entry, Matrix.one_apply, apply_ite residue, residue_one, residue_zero]

@[simp] theorem invMixColumns_mixColumns (b : Block) : invMixColumns (mixColumns b) = b :=
  mulColumns_mulColumns columnMatrix_invMixRow_mul b

/-- A column of four equal bytes is a fixed point when the coefficients of every row add up to 1 (R145, R146). -/
theorem cell_mulColumns_of_equal {a : KeyWord}
    (ha : ∀ r, circulant a r 0 ^^^ circulant a r 1 ^^^ circulant a r 2 ^^^ circulant a r 3 = 1#8)
    {s : Block} {c : Fin 4} {b : Byte} (hb : ∀ r, cell s r c = b) (r : Fin 4) : cell (mulColumns a s) r c = b := by
  rw [cell_mulColumns, hb, hb, hb, hb]
  simp only [gfMultiply_comm _ b, ← gfMultiply_xor, ha, gfMultiply_one]

/-- Settles O43: each transform is undone by its inverse, bytes, cells and columns apart. -/
theorem inverseTransformsUndo : Obligations.InverseTransformsUndo := fun b k =>
  ⟨invSubBytes_subBytes b, invShiftRows_shiftRows b, invMixColumns_mixColumns b, addRoundKey_addRoundKey k b⟩

end Sys2Proof.Machine
end

section
/-! The micro-ops of the round transforms (R140 to R146): the common frame of R140, and what each transform does to the
block. -/

namespace Sys2Proof.Machine

/-! ### The common frame -/

theorem exec_sb (s : State) : exec .sb s = transform subBytes s := rfl

theorem exec_isb (s : State) : exec .isb s = transform invSubBytes s := rfl

theorem exec_sr (s : State) : exec .sr s = transform shiftRows s := rfl

theorem exec_isr (s : State) : exec .isr s = transform invShiftRows s := rfl

theorem exec_mc (s : State) : exec .mc s = transform mixColumns s := rfl

theorem exec_imc (s : State) : exec .imc s = transform invMixColumns s := rfl

/-- A round micro-op completes in every state, applies its transform to STATE, and changes nothing else but UPC (R140). -/
theorem exec_transform_frame {i : Instr} {f : Block → Block} (hi : ∀ s, exec i s = transform f s) (s : State) :
    ∃ t, exec i s = .next t ∧ t.state = f s.state ∧ t = { s with state := t.state, upc := s.upc + 1 } :=
  ⟨_, hi s, rfl, rfl⟩

/-- A round micro-op restores STATE after another one when its transform undoes the other's. -/
theorem exec_transform_undo {i j : Instr} {f g : Block → Block} (hi : ∀ s, exec i s = transform f s)
    (hj : ∀ s, exec j s = transform g s) (hgf : ∀ b, g (f b) = b) (s : State) :
    ∃ t u, exec i s = .next t ∧ exec j t = .next u ∧ u.state = s.state :=
  ⟨_, _, hi s, hj _, hgf s.state⟩

/-! ### The micro-ops -/

/-- Settles O27: SB substitutes byte by byte, and no byte is fixed (R104). -/
theorem subBytesMicroOp : Obligations.SubBytesMicroOp := by
  refine ⟨by decide, fun s => ?_⟩
  obtain ⟨t, hexec, hstate, hframe⟩ := exec_transform_frame exec_sb s
  have hbyte (i : Fin 16) : t.state[i] = sbox s.state[i] := by
    rw [hstate]
    exact subBytes_get s.state i i.isLt
  exact ⟨t, hexec, fun i => ⟨hbyte i, hbyte i ▸ sbox_ne_self _⟩, by decide, hframe⟩

/-- Settles O28: ISB substitutes byte by byte, and the inverse box undoes the box. -/
theorem invSubBytesMicroOp : Obligations.InvSubBytesMicroOp := by
  refine ⟨by decide, fun s => ?_, exec_transform_undo exec_sb exec_isb invSubBytes_subBytes⟩
  obtain ⟨t, hexec, hstate, hframe⟩ := exec_transform_frame exec_isb s
  refine ⟨t, hexec, fun i => ?_, hframe⟩
  rw [hstate]
  exact invSubBytes_get s.state i i.isLt

/-- Settles O29: SR moves the cells as R143 says, which is the permutation written there. -/
theorem shiftRowsMicroOp : Obligations.ShiftRowsMicroOp := by
  refine ⟨by decide, fun s => ?_⟩
  obtain ⟨t, hexec, hstate, hframe⟩ := exec_transform_frame exec_sr s
  exact ⟨t, hexec, fun r c => by rw [hstate, cell_shiftRows], hstate.trans (shiftRows_eq s.state), hframe⟩

/-- Settles O30: ISR moves the cells as R144 says, which is the permutation written there, and turns each row back. -/
theorem invShiftRowsMicroOp : Obligations.InvShiftRowsMicroOp := by
  refine ⟨by decide, fun s => ?_, exec_transform_undo exec_sr exec_isr invShiftRows_shiftRows⟩
  obtain ⟨t, hexec, hstate, hframe⟩ := exec_transform_frame exec_isr s
  exact ⟨t, hexec, fun r c => by rw [hstate, cell_invShiftRows], hstate.trans (invShiftRows_eq s.state), hframe⟩

/-- Settles O31: the four rows of each product, and `2 XOR 3 XOR 1 XOR 1 = 1` in every row of M. -/
theorem mixColumnsMicroOp : Obligations.MixColumnsMicroOp := by
  refine ⟨by decide, fun s => ?_⟩
  obtain ⟨t, hexec, hstate, hframe⟩ := exec_transform_frame exec_mc s
  refine ⟨t, hexec, fun c => ?_, fun c b hb r => ?_, hframe⟩ <;> rw [hstate, mixColumns]
  · exact ⟨cell_mulColumns mixRow s.state 0 c, cell_mulColumns mixRow s.state 1 c, cell_mulColumns mixRow s.state 2 c,
      cell_mulColumns mixRow s.state 3 c⟩
  · exact cell_mulColumns_of_equal (by decide) hb r

/-- Settles O32: the four rows of each product, `14 XOR 11 XOR 13 XOR 9 = 1` in every row of M', and `M' M` is the
identity. -/
theorem invMixColumnsMicroOp : Obligations.InvMixColumnsMicroOp := by
  refine ⟨by decide, fun s => ?_, exec_transform_undo exec_mc exec_imc invMixColumns_mixColumns⟩
  obtain ⟨t, hexec, hstate, hframe⟩ := exec_transform_frame exec_imc s
  refine ⟨t, hexec, fun c => ?_, fun c b hb r => ?_, hframe⟩ <;> rw [hstate, invMixColumns]
  · exact ⟨cell_mulColumns invMixRow s.state 0 c, cell_mulColumns invMixRow s.state 1 c,
      cell_mulColumns invMixRow s.state 2 c, cell_mulColumns invMixRow s.state 3 c⟩
  · exact cell_mulColumns_of_equal (by decide) hb r

end Sys2Proof.Machine
end

section
/-! The edges of the orchestrator (R160, R170): what an edge does by PHASE and the cycle the host drives, and what one RUN
edge does to PHASE and UPC. -/

namespace Sys2Proof.Machine

/-! ### Cycles of the host -/

theorem isStart_iff {w : BusWord} :
    isStart w = true ↔
      busSel w = true ∧ busWe w = true ∧ busAddr w = 0x00 ∧ ctrlStart (busWdata w) = true := by
  simp [isStart, isWriteTo, and_assoc]

/-- A cycle that carries a write drives 0x00 on `rdata` (R181). -/
theorem cycleRdata_of_write {w : BusWord} (hwe : busWe w = true) (s : State) : cycleRdata s w = 0x00 := by
  simp [cycleRdata, hwe]

/-- The first of the next `n + 1` cycles is the one the coming edge takes. -/
theorem noReset_take_succ (s : State) (n : Nat) :
    noReset (s.host.take (n + 1)) ↔ (nextCycle s).rst = false ∧ noReset (s.host.tail.take n) := by
  cases hs : s.host with
  | nil => simp [noReset, nextCycle, hs, idleCycle]
  | cons c h => simp [noReset, nextCycle, hs]

theorem noReset_take_mono {h : List HostCycle} {m n : Nat} (hmn : m ≤ n) (hr : noReset (h.take n)) :
    noReset (h.take m) :=
  fun c hc => hr c (List.take_subset_take_left h hmn hc)

/-! ### The step by reset and PHASE -/

theorem step_of_reset {s : State} (hr : (nextCycle s).rst = true) :
    step s = .next (resetEdge (nextCycle s).word (takeCycle s)) :=
  edge_reset hr (takeCycle s)

theorem step_of_idle {s : State} (hr : (nextCycle s).rst = false) (hp : s.phase = .idle) :
    step s = .next (drive (cycleRdata s (nextCycle s).word)
      (if busSel (nextCycle s).word && busWe (nextCycle s).word then
        busWrite (takeCycle s) (busAddr (nextCycle s).word) (busWdata (nextCycle s).word)
      else takeCycle s)) :=
  edge_idle (s := takeCycle s) hr hp

theorem step_of_run {s : State} (hr : (nextCycle s).rst = false) (hp : s.phase = .run) :
    step s = runStep (drive (cycleRdata s (nextCycle s).word) (takeCycle s)) :=
  edge_run (s := takeCycle s) hr hp

/-! ### Edges in IDLE -/

theorem phase_idle_of_ne_run {s : State} (h : s.phase ≠ .run) : s.phase = .idle := by
  cases hp : s.phase with
  | idle => rfl
  | run => exact absurd hp h

@[simp] theorem startCheck_takeCycle (s : State) (mode : BitVec 2) : startCheck (takeCycle s) mode = startCheck s mode :=
  rfl

/-- An edge in IDLE whose cycle carries a START write is `Start` (R191). -/
theorem step_start {s : State} (hr : (nextCycle s).rst = false) (hp : s.phase = .idle)
    (hw : isStart (nextCycle s).word = true) :
    step s = .next (drive 0x00 (start (ctrlMode (busWdata (nextCycle s).word)) (takeCycle s))) := by
  obtain ⟨hsel, hwe, haddr, hctrl⟩ := isStart_iff.mp hw
  rw [step_of_idle hr hp, cycleRdata_of_write hwe]
  simp [hsel, hwe, haddr, busWrite, hctrl]

theorem step_start_accepted {s : State} (hr : (nextCycle s).rst = false) (hp : s.phase = .idle)
    (hw : isStart (nextCycle s).word = true)
    (hcheck : startCheck s (ctrlMode (busWdata (nextCycle s).word)) = .none) :
    step s = .next (drive 0x00 (acceptCall (ctrlMode (busWdata (nextCycle s).word)) (takeCycle s))) := by
  rw [step_start hr hp hw]
  rcases start_cases (ctrlMode (busWdata (nextCycle s).word)) (takeCycle s) with ⟨_, he⟩ | ⟨hne, _⟩
  · rw [he]
  · exact absurd hcheck hne

theorem step_start_rejected {s : State} (hr : (nextCycle s).rst = false) (hp : s.phase = .idle)
    (hw : isStart (nextCycle s).word = true)
    (hcheck : startCheck s (ctrlMode (busWdata (nextCycle s).word)) ≠ .none) :
    step s = .next (drive 0x00
      (recordError (startCheck s (ctrlMode (busWdata (nextCycle s).word))) (takeCycle s))) := by
  rw [step_start hr hp hw]
  rcases start_cases (ctrlMode (busWdata (nextCycle s).word)) (takeCycle s) with ⟨heq, _⟩ | ⟨_, he⟩
  · exact absurd heq hcheck
  · rw [he, startCheck_takeCycle]

/-- A bus write that is no START leaves PHASE, UPC and ERR as they are (R183). -/
theorem busWrite_frame_of_not_start {a : BusAddr} {d : Byte} (hw : a = 0x00 → ctrlStart d = false) (s : State) :
    (busWrite s a d).phase = s.phase ∧ (busWrite s a d).upc = s.upc ∧ (busWrite s a d).err = s.err := by
  rcases busWrite_cases s a d with ⟨ha, hctrl, _⟩ | ⟨_, he⟩ | ⟨_, he⟩ | ⟨_, _, _, he⟩
  · simp [hw ha] at hctrl
  · simp [he]
  · simp [he]
  · simp [he]

/-- An edge in IDLE without a START write leaves PHASE, UPC and ERR as they are (R170). -/
theorem step_idle_frame {s t : State} (hr : (nextCycle s).rst = false) (hp : s.phase = .idle)
    (hw : isStart (nextCycle s).word = false) (h : step s = .next t) :
    t.phase = .idle ∧ t.upc = s.upc ∧ t.err = s.err := by
  rw [step_of_idle hr hp] at h
  cases h
  split
  next hwrite =>
    rw [Bool.and_eq_true] at hwrite
    have hctrl : busAddr (nextCycle s).word = 0x00 → ctrlStart (busWdata (nextCycle s).word) = false := fun ha => by
      simpa [isStart, isWriteTo, hwrite, ha] using hw
    simpa [hp] using busWrite_frame_of_not_start hctrl (takeCycle s)
  next => exact ⟨hp, rfl, rfl⟩

/-! ### Edges in RUN -/

/-- Below UPC 50 the RUN step completes, stays in RUN and goes to the next micro-op. -/
theorem runStep_below_out {s : State} (h : s.upc.toNat < 50) :
    ∃ t, runStep s = .next t ∧ t.phase = s.phase ∧ t.upc = s.upc + 1 ∧ t.host = s.host := by
  obtain ⟨t, ht⟩ := runStep_completes (Nat.le_of_lt h)
  rcases runStep_cases ht with ⟨j, _, rfl⟩ | ⟨f, _, _, rfl⟩ | ⟨hout, _⟩
  · exact ⟨_, ht, rfl, rfl, rfl⟩
  · exact ⟨_, ht, rfl, rfl, rfl⟩
  · simp [hout] at h

/-- At UPC 50 the RUN step is OUT (R164). -/
theorem runStep_at_out {s : State} (h : s.upc = 50) :
    runStep s = .next { s with dout := s.state, done := true, phase := .idle } := by
  have hupc : s.upc.toNat = 50 := by rw [h]; rfl
  obtain ⟨t, ht⟩ := runStep_completes (Nat.le_of_eq hupc)
  rcases runStep_cases ht with ⟨j, hj, _⟩ | ⟨f, _, hlt, _⟩ | ⟨_, rfl⟩
  · omega
  · omega
  · exact ht

theorem step_run_below_out {s : State} (hr : (nextCycle s).rst = false) (hp : s.phase = .run) (h : s.upc.toNat < 50) :
    ∃ t, step s = .next t ∧ t.phase = .run ∧ t.upc = s.upc + 1 ∧ t.host = s.host.tail := by
  rw [step_of_run hr hp]
  obtain ⟨t, ht, hphase, hupc, hhost⟩ := runStep_below_out (s := drive _ (takeCycle s)) h
  exact ⟨t, ht, hphase.trans hp, hupc, hhost⟩

theorem step_run_at_out {s : State} (hr : (nextCycle s).rst = false) (hp : s.phase = .run) (h : s.upc = 50) :
    ∃ t, step s = .next t ∧ t.phase = .idle ∧ t.done = true ∧ t.upc = 50 := by
  rw [step_of_run hr hp, runStep_at_out (s := drive _ (takeCycle s)) h]
  exact ⟨_, rfl, rfl, rfl, h⟩

end Sys2Proof.Machine
end

section
/-! The orchestrator (44_orchestrator.md): the edge function of R160, the transitions of R170 and the bound of R168. -/

namespace Sys2Proof.Machine

/-! ### Calls end -/

theorem run_succ_of_step {s t : State} (h : step s = .next t) (n : Nat) :
    Host.Core.run Sys2Proof.core (n + 1) s = Host.Core.run Sys2Proof.core n t := by
  rw [run_succ, h]

/-- Without a reset, `n` edges in RUN that do not pass UPC 50 move UPC on by `n`. -/
theorem run_below_out {n : Nat} {s : State} (hp : s.phase = .run) (hle : s.upc.toNat + n ≤ 50)
    (hr : noReset (s.host.take n)) :
    ∃ t, Host.Core.run Sys2Proof.core n s = .next t ∧ t.phase = .run ∧ t.upc.toNat = s.upc.toNat + n ∧
      t.host = s.host.drop n := by
  induction n generalizing s with
  | zero => exact ⟨s, run_zero s, hp, rfl, rfl⟩
  | succ n ih =>
    obtain ⟨hfirst, hrest⟩ := (noReset_take_succ s n).mp hr
    obtain ⟨u, hstep, hphase, hupc, hhost⟩ := step_run_below_out hfirst hp (by omega)
    have hnext : u.upc.toNat = s.upc.toNat + 1 := by rw [hupc]; bv_omega
    obtain ⟨t, hrun, htphase, htupc, hthost⟩ := ih hphase (by omega) (hhost ▸ hrest)
    refine ⟨t, (run_succ_of_step hstep n).trans hrun, htphase, by omega, ?_⟩
    rw [hthost, hhost, List.drop_tail]

/-- Without a reset, RUN from UPC 0 is IDLE with DONE = 1 after 51 edges. -/
theorem run_through_out {s : State} (hp : s.phase = .run) (hupc : s.upc = 0) (hr : noReset (s.host.take 51)) :
    ∃ t, Host.Core.run Sys2Proof.core 51 s = .next t ∧ t.phase = .idle ∧ t.done = true := by
  have hzero : s.upc.toNat = 0 := by rw [hupc]; rfl
  obtain ⟨u, hrun, hphase, hout, hhost⟩ :=
    run_below_out (n := 50) hp (by omega) (noReset_take_mono (by decide) hr)
  have hlast : u.upc = 50 := BitVec.eq_of_toNat_eq (by simpa [hzero] using hout)
  have hnoReset : (nextCycle u).rst = false := by
    refine ((noReset_take_succ u 0).mp ?_).1
    rw [hhost, List.take_drop]
    exact fun c hc => hr c (List.mem_of_mem_drop hc)
  obtain ⟨t, hstep, hidle, hdone, _⟩ := step_run_at_out hnoReset hphase hlast
  exact ⟨t, (run_add (n := 1) hrun).trans (run_succ_of_step hstep 0), hidle, hdone⟩

/-- Whatever the host drives, RUN with `k` micro-ops left before OUT reaches IDLE within `k + 1` edges. -/
theorem run_reaches_idle {k : Nat} {s : State} (hp : s.phase = .run) (hk : s.upc.toNat + k = 50) :
    ∃ (n : Nat) (t : State), n ≤ k + 1 ∧ Host.Core.run Sys2Proof.core n s = .next t ∧ t.phase = .idle := by
  induction k generalizing s with
  | zero =>
    cases hr : (nextCycle s).rst with
    | true => exact ⟨1, _, Nat.le_refl 1, run_succ_of_step (step_of_reset hr) 0, rfl⟩
    | false =>
      obtain ⟨t, hstep, hidle, _⟩ := step_run_at_out hr hp (BitVec.eq_of_toNat_eq hk)
      exact ⟨1, t, Nat.le_refl 1, run_succ_of_step hstep 0, hidle⟩
  | succ k ih =>
    cases hr : (nextCycle s).rst with
    | true => exact ⟨1, _, by omega, run_succ_of_step (step_of_reset hr) 0, rfl⟩
    | false =>
      obtain ⟨u, hstep, hphase, hupc, _⟩ := step_run_below_out hr hp (by omega)
      obtain ⟨n, t, hn, hrun, hidle⟩ := ih hphase (by rw [hupc]; bv_omega)
      exact ⟨n + 1, t, by omega, (run_succ_of_step hstep n).trans hrun, hidle⟩

/-- Settles O56: the START edge enters RUN at UPC 0, the edges up to UPC 50 are counted by induction, and OUT ends the
call. -/
theorem everyCallEndsOnTime : Obligations.EveryCallEndsOnTime := by
  refine ⟨fun s c h hp hs hr hw hcheck hcall => ?_, fun s hp hle => ?_⟩
  · obtain ⟨rfl, htake⟩ := nextCycle_of_cons hs
    have hstart := step_start_accepted hr hp hw hcheck
    replace hcall : noReset ((takeCycle s).host.take 51) := by rwa [htake]
    refine ⟨fun n hn => ?_, ?_⟩
    · obtain ⟨t, hrun, hphase, hupc, _⟩ := run_below_out (n := n) (s := drive 0x00 (acceptCall _ (takeCycle s))) rfl
        (by simpa using Nat.le_of_lt_succ hn) (noReset_take_mono (by omega) hcall)
      exact ⟨t, by rw [Nat.add_comm, run_succ_of_step hstart, hrun], hphase, by simpa using hupc⟩
    · rw [Nat.add_comm, run_succ_of_step hstart]
      exact run_through_out rfl rfl hcall
  · obtain ⟨n, t, hn, hrun, hidle⟩ := run_reaches_idle hp (Nat.add_sub_cancel' hle)
    exact ⟨n, t, by omega, hrun, hidle⟩

/-! ### The edge function and the transitions -/

/-- Settles O10: by reset, PHASE and whether the cycle carries a write. -/
theorem stepIsTheEdgeFunction : Obligations.StepIsTheEdgeFunction := by
  intro s c h hs
  obtain ⟨rfl, htake⟩ := nextCycle_of_cons hs
  rw [← cycleRdata_eq]
  cases hr : (nextCycle s).rst with
  | true =>
    rw [if_pos rfl, step_of_reset hr, htake]
    rfl
  | false =>
    rw [if_neg Bool.false_ne_true]
    by_cases hp : s.phase = .run
    · rw [if_pos hp, step_of_run hr hp, htake]
      rfl
    · rw [if_neg hp, step_of_idle hr (phase_idle_of_ne_run hp), htake]
      cases hw : busSel (nextCycle s).word && busWe (nextCycle s).word with
      | true =>
        rw [Bool.and_eq_true] at hw
        rw [if_pos rfl, if_pos rfl, cycleRdata_of_write hw.2, busWrite_setHost]
        rfl
      | false => rfl

/-- Settles O50: one lemma per transition. -/
theorem phaseTransitions : Obligations.PhaseTransitions := by
  intro s t c h hs ht
  obtain ⟨rfl, htake⟩ := nextCycle_of_cons hs
  refine ⟨fun hr => ?_, fun hr hp hw => step_idle_frame hr hp hw ht, fun hr hp hw hcheck => ?_,
    fun hr hp hw hcheck => ?_, fun hr hp hlt => ?_, fun hr hp hout => ?_⟩
  · rw [step_of_reset hr, htake] at ht
    cases ht
    rfl
  · rw [step_start_accepted hr hp hw hcheck] at ht
    cases ht
    exact ⟨rfl, rfl⟩
  · rw [step_start_rejected hr hp hw hcheck] at ht
    cases ht
    exact ⟨hp, hcheck⟩
  · obtain ⟨u, hu, hphase, hupc, _⟩ := step_run_below_out hr hp hlt
    rw [hu] at ht
    cases ht
    exact ⟨hphase, hupc⟩
  · obtain ⟨u, hu, hresult⟩ := step_run_at_out hr hp hout
    rw [hu] at ht
    cases ht
    exact hresult

end Sys2Proof.Machine
end

section
/-! The host interface (45_host_interface.md): bus reads and reserved writes by address, START in IDLE, and that the bus only
drives `rdata` in RUN. -/

namespace Sys2Proof.Machine

/-! ### The bus in RUN -/

/-- A round micro-op carries `rdata` along (R140). -/
theorem exec_transform_drive {i : Instr} {f : Block → Block} {s t : State} (hi : ∀ s, exec i s = transform f s)
    (h : exec i s = .next t) (v : Byte) : exec i (drive v s) = .next (drive v t) := by
  rw [hi, transform] at h ⊢
  cases h
  rfl

/-- A micro-op neither reads nor writes `rdata` (R160). -/
theorem exec_uop_drive {w : UopWord} {i : Instr} {s t : State} (hi : decodeUop w = .ok i) (h : exec i s = .next t)
    (v : Byte) : exec i (drive v s) = .next (drive v t) := by
  rcases decodeUop_cases hi with ⟨j, rfl, -⟩ | ⟨r, rfl, -⟩ | ⟨rfl, -⟩ | ⟨rfl, -⟩ | ⟨rfl, -⟩ | ⟨rfl, -⟩ | ⟨rfl, -⟩ |
    ⟨rfl, -⟩ | ⟨rfl, -⟩
  · rw [exec, execKeyexp_legal] at h ⊢
    cases h
    rfl
  · rw [exec, execArk_legal] at h ⊢
    cases h
    rfl
  · exact exec_transform_drive exec_sb h v
  · exact exec_transform_drive exec_isb h v
  · exact exec_transform_drive exec_sr h v
  · exact exec_transform_drive exec_isr h v
  · exact exec_transform_drive exec_mc h v
  · exact exec_transform_drive exec_imc h v
  · cases h
    rfl

theorem fetchUop_decodes {s : State} {i : Instr} (h : fetchUop s = .ok i) : ∃ w, decodeUop w = .ok i := by
  unfold fetchUop at h
  split at h
  next => cases h
  next w _ =>
    split at h
    next j hj =>
      cases h
      exact ⟨w, hj⟩
    next => cases h

/-- The RUN step carries `rdata` along (R160, R163). -/
theorem runStep_drive {s t : State} (h : runStep s = .next t) (v : Byte) : runStep (drive v s) = .next (drive v t) := by
  have hfetch : fetchUop (drive v s) = fetchUop s := rfl
  unfold runStep at h ⊢
  rw [hfetch]
  cases hi : fetchUop s with
  | error f =>
    rw [hi] at h
    cases h
  | ok i =>
    rw [hi] at h
    obtain ⟨w, hw⟩ := fetchUop_decodes hi
    exact exec_uop_drive hw h v

/-- Settles O51: the step in RUN is the RUN step with `rdata` driven, which only a read sets to anything but 0x00. -/
theorem hostWritesAreIgnoredInRun : Obligations.HostWritesAreIgnoredInRun := by
  intro s w h hp
  have hstep (u : BusWord) : step { s with host := { rst := false, word := u } :: h } =
      runStep (drive (cycleRdata s u) { s with host := h }) :=
    step_of_run (s := { s with host := { rst := false, word := u } :: h }) rfl hp
  have hidle : cycleRdata s 0 = 0x00 := rfl
  refine ⟨fun hw => ?_, fun t ht => ?_⟩
  · have hwrite : cycleRdata s w = 0x00 := by simp [cycleRdata_eq, hw]
    rw [hstep, hstep, hwrite, hidle]
  · rw [hstep] at ht
    rw [hstep, hidle]
    exact runStep_drive ht 0x00

/-! ### Reserved writes -/

/-- A write to 0x06..0x0F is one of the two reserved writes (R76). -/
theorem decodeWrite_reserved {a : BusAddr} (hlo : 0x06 ≤ a) (hhi : a ≤ 0x0F) (d : Byte) :
    (∃ b, decodeWrite a d = .wrRsvd06 b d) ∨ ∃ b, decodeWrite a d = .wrRsvd08 b d := by
  rw [decodeWrite, if_neg (by bv_omega), if_neg (by bv_omega), if_neg (by bv_omega), if_neg (by bv_omega),
    if_neg (by bv_omega)]
  split_ifs with h6 h8
  · exact .inl ⟨_, rfl⟩
  · exact .inr ⟨_, rfl⟩
  · bv_omega

/-- Settles O16: by the two reserved-write operations, neither of which has an effect. -/
theorem reservedAddressWritesAreIgnored : Obligations.ReservedAddressWritesAreIgnored := by
  intro s a d hlo hhi
  rw [decodeBus_write]
  have hdecode := decodeWrite_reserved hlo hhi d
  refine ⟨hdecode, ?_⟩
  rcases hdecode with ⟨b, hb⟩ | ⟨b, hb⟩
  · rw [hb]
    exact hostWrite_id s
  · rw [hb]
    exact hostWrite_id s

/-! ### START -/

/-- Settles O18: each START operation is `Start` with its mode, which accepts the call or records the code. -/
theorem startSharedSemantics : Obligations.StartSharedSemantics := by
  intro s i mode hp hi
  have hexec : exec i s = .next (drive 0x00 (start mode s)) := by
    rcases hi with ⟨⟨x, rfl⟩, rfl⟩ | ⟨⟨x, rfl⟩, rfl⟩ | ⟨⟨x, rfl⟩, rfl⟩ | ⟨⟨x, rfl⟩, rfl⟩
    · exact hostWrite_idle hp (start 0b00)
    · exact hostWrite_idle hp (start 0b01)
    · exact hostWrite_idle hp (start (badMode 0))
    · exact hostWrite_idle hp (start (badMode 1))
  refine ⟨_, hexec, ?_⟩
  rcases start_cases mode s with ⟨hnone, hstart⟩ | ⟨hcode, hstart⟩
  · rw [hstart, hnone]
    exact ⟨rfl, fun _ => ⟨rfl, rfl, rfl⟩, fun hne => absurd rfl hne⟩
  · rw [hstart]
    exact ⟨rfl, fun heq => absurd heq hcode, fun _ => ⟨rfl, rfl, rfl⟩⟩

/-! ### Reads -/

theorem zext8_eq_append (v : BitVec 5) : zext8 v = 0b000#3 ++ v := by
  revert v
  decide

theorem doutByte_ofNat (b : Block) (i : Fin 16) : doutByte b (BitVec.ofNat 4 i.val) = b[i] := by
  simp [doutByte]

/-- 0x10..0x1F read DOUT (R182). -/
theorem busRead_dout (s : State) (i : Fin 16) : busRead s (BitVec.ofNat 5 (0x10 + i.val)) = s.dout[i] := by
  have haddr : ∀ i : Fin 16, BitVec.ofNat 5 (0x10 + i.val) ≠ 0x01 ∧ BitVec.ofNat 5 (0x10 + i.val) ≠ 0x02 ∧
      BitVec.ofNat 5 (0x10 + i.val) ≠ 0x03 ∧ 0x10 ≤ BitVec.ofNat 5 (0x10 + i.val) ∧
      (BitVec.ofNat 5 (0x10 + i.val)).extractLsb' 0 4 = BitVec.ofNat 4 i.val := by decide
  obtain ⟨h1, h2, h3, hhi, hindex⟩ := haddr i
  rw [busRead, if_neg h1, if_neg h2, if_neg h3, if_pos hhi, hindex, doutByte_ofNat]

/-- 0x06..0x0F read 0x00 (R182, R201). -/
theorem busRead_reserved {a : BusAddr} (hlo : 0x06 ≤ a) (hhi : a ≤ 0x0F) (s : State) : busRead s a = 0x00 := by
  rw [busRead, if_neg (by bv_omega), if_neg (by bv_omega), if_neg (by bv_omega), if_neg (by bv_omega)]

/-- Settles O26: address by address, and every read decodes to an operation that answers `BusRead`. -/
theorem busReadByAddress : Obligations.BusReadByAddress := by
  intro s
  refine ⟨rfl, rfl, rfl, rfl, zext8_eq_append s.keyCnt, zext8_eq_append s.dinCnt,
    fun a hlo hhi => busRead_reserved hlo hhi s, busRead_dout s, fun a d => ?_⟩
  rw [decodeBus_read, exec_decodeRead]
  rfl

end Sys2Proof.Machine
end

section
/-! Errors of the caller (60_exceptions.md): the check of a START write, branch by branch, and what a rejected START does. -/

namespace Sys2Proof.Machine

/-! ### The check of a START write -/

theorem startCheck_of_keyCnt_ne {s : State} (hk : s.keyCnt ≠ 16) (mode : BitVec 2) :
    startCheck s mode = .invalidKeyLength :=
  if_pos hk

theorem startCheck_of_dinCnt_ne {s : State} (hk : s.keyCnt = 16) (hd : s.dinCnt ≠ 16) (mode : BitVec 2) :
    startCheck s mode = .invalidBlockLength := by
  rw [startCheck, if_neg (not_not_intro hk), if_pos hd]

theorem startCheck_of_bad_mode {s : State} {mode : BitVec 2} (hk : s.keyCnt = 16) (hd : s.dinCnt = 16)
    (hm : mode.getLsbD 1 = true) : startCheck s mode = .invalidMode := by
  rw [startCheck, if_neg (not_not_intro hk), if_neg (not_not_intro hd), if_pos hm]

/-- Settles O17: the branches of the check in their order, and the codes of R210. -/
theorem startCheckPriority : Obligations.StartCheckPriority :=
  fun s mode =>
    ⟨fun hk => startCheck_of_keyCnt_ne hk mode,
      fun hk hd => startCheck_of_dinCnt_ne hk hd mode,
      startCheck_of_bad_mode,
      fun hk hd hm => (startCheck_none s mode).mpr ⟨hk, hd, hm⟩,
      rfl, rfl, rfl, rfl⟩

/-! ### A rejected START -/

/-- In IDLE the operation that a START word decodes to is `Start` with the word's mode (R191). -/
theorem exec_start_idle {s : State} {w : BusWord} (hp : s.phase = .idle) (hw : isStart w = true) :
    exec (decodeBus w) s = .next (drive 0x00 (start (ctrlMode (busWdata w)) s)) := by
  obtain ⟨hsel, hwe, haddr, hctrl⟩ := isStart_iff.mp hw
  rw [exec_bus_idle hp, cycleRdata_of_write hwe]
  simp [hsel, hwe, haddr, busWrite, hctrl]

/-- Settles O21: a START whose check fails is the recording of the code, which is R213's four updates. -/
theorem rejectedStartUpdatesExactlyFour : Obligations.RejectedStartUpdatesExactlyFour := by
  intro s w hp hw hcheck
  rw [exec_start_idle hp hw]
  rcases start_cases (ctrlMode (busWdata w)) s with ⟨hnone, _⟩ | ⟨_, hstart⟩
  · exact absurd hnone hcheck
  · rw [hstart]
    rfl

end Sys2Proof.Machine
end

section
/-! Reset (70_reset_and_hazards.md): what an edge with `rst = 1` answers. -/

namespace Sys2Proof.Machine

theorem block_zero_get (i : Fin 16) : Block.zero[i] = 0 := Vector.getElem_replicate i.isLt

/-- Settles O9: the answer is the reset edge, whose elements are those of R32 and whose `rdata` is R181's. -/
theorem resetEdgeSetsEveryElement : Obligations.ResetEdgeSetsEveryElement := by
  intro s c h hs hrst
  obtain ⟨rfl, htake⟩ := nextCycle_of_cons hs
  have hsched (k : Fin 11) : (Vector.replicate 11 Block.zero)[k] = Block.zero := Vector.getElem_replicate k.isLt
  have hrdata : (resetEdge (nextCycle s).word (takeCycle s)).rdata =
      if isRead (nextCycle s).word then busRead s (busAddr (nextCycle s).word) else 0x00 := by
    rw [resetEdge_rdata, cycleRdata_takeCycle, cycleRdata_eq]
  have hhost : (resetEdge (nextCycle s).word (takeCycle s)).host = h := by rw [resetEdge_host, htake]
  refine ⟨_, step_of_reset hrst, block_zero_get, fun k i => ?_, block_zero_get, rfl, rfl, rfl, rfl, rfl, rfl, rfl,
    hrdata, hhost⟩
  rw [resetEdge_sched, hsched k]
  exact block_zero_get i

end Sys2Proof.Machine
end

section
/-! The two word formats (30_encoding.md): decoding an encoded instruction, encoding a decoded word, and the reserved
micro-op words (R79). -/

namespace Sys2Proof

open Machine

/-! ### The addresses of the rows with address operands -/

theorem decodeWrite_count (a : BitVec 1) (d : Byte) : decodeWrite (0b0001#4 ++ a) d = .wrCount a d := by
  have hbit : ∀ a : BitVec 1, a = 0 ∨ a = 1 := by decide
  rcases hbit a with rfl | rfl <;> rfl

/-- Addresses 0x06 and 0x07, for writes and reads. -/
theorem decode_rsvd06 (a : BitVec 1) (d : Byte) :
    decodeWrite (0b0011#4 ++ a) d = .wrRsvd06 a d ∧ decodeRead (0b0011#4 ++ a) d = .rdRsvd06 a d := by
  have hbit : ∀ a : BitVec 1, a = 0 ∨ a = 1 := by decide
  rcases hbit a with rfl | rfl <;> exact ⟨rfl, rfl⟩

/-- Addresses 0x08 to 0x0F, for writes and reads. -/
theorem decode_rsvd08 (a : BitVec 3) (d : Byte) :
    decodeWrite (0b01#2 ++ a) d = .wrRsvd08 a d ∧ decodeRead (0b01#2 ++ a) d = .rdRsvd08 a d := by
  have haddr : ∀ a : BitVec 3, (0x08 : BusAddr) ≤ 0b01#2 ++ a ∧ 0b01#2 ++ a < (0x10 : BusAddr) ∧
      (0b01#2 ++ a : BusAddr).extractLsb' 0 3 = a := by decide
  obtain ⟨hlo, hhi, hindex⟩ := haddr a
  generalize 0b01#2 ++ a = addr at *
  subst hindex
  constructor
  · rw [decodeWrite, if_neg (by bv_omega), if_neg (by bv_omega), if_neg (by bv_omega), if_neg (by bv_omega),
      if_neg (by bv_omega), if_neg (by bv_omega), if_pos hhi]
  · rw [decodeRead, if_neg (by bv_omega), if_neg (by bv_omega), if_neg (by bv_omega), if_neg (by bv_omega),
      if_neg (by bv_omega), if_neg (by bv_omega), if_neg (by bv_omega), if_pos hhi]

/-- Addresses 0x10 to 0x1F, for writes and reads. -/
theorem decode_dout (i : BitVec 4) (d : Byte) :
    decodeWrite (0b1#1 ++ i) d = .wrDout i d ∧ decodeRead (0b1#1 ++ i) d = .rdDout i d := by
  have haddr : ∀ i : BitVec 4, (0x10 : BusAddr) ≤ 0b1#1 ++ i ∧ (0b1#1 ++ i : BusAddr).extractLsb' 0 4 = i := by decide
  obtain ⟨hlo, hindex⟩ := haddr i
  generalize 0b1#1 ++ i = addr at *
  subst hindex
  constructor
  · rw [decodeWrite, if_neg (by bv_omega), if_neg (by bv_omega), if_neg (by bv_omega), if_neg (by bv_omega),
      if_neg (by bv_omega), if_neg (by bv_omega), if_neg (by bv_omega)]
  · rw [decodeRead, if_neg (by bv_omega), if_neg (by bv_omega), if_neg (by bv_omega), if_neg (by bv_omega),
      if_neg (by bv_omega), if_neg (by bv_omega), if_neg (by bv_omega), if_neg (by bv_omega)]

/-! ### The CTRL data bytes -/

theorem decodeCtrl_nop : ∀ x : BitVec 7, decodeCtrl (x ++ 0b0#1) = .wrCtrlNop x := by decide

theorem decodeCtrl_startEnc : ∀ x : BitVec 5, decodeCtrl (x ++ 0b001#3) = .startEnc x := by decide

theorem decodeCtrl_startDec : ∀ x : BitVec 5, decodeCtrl (x ++ 0b011#3) = .startDec x := by decide

theorem decodeCtrl_startBadmode :
    ∀ (x : BitVec 5) (m : BitVec 1), decodeCtrl (x ++ 0b1#1 ++ m ++ 0b1#1) = .startBadmode x m := by decide

theorem decodeWrite_ctrl (d : Byte) : decodeWrite 0x00 d = decodeCtrl d := rfl

theorem decodeBus_idle (x : BitVec 14) : decodeBus (0b0#1 ++ x) = .busIdle x := by
  have hsel : busSel (0b0#1 ++ x) = false := by
    rw [busSel, BitVec.getLsbD_append]
    simp
  rw [decodeBus, if_pos hsel]
  congr 1
  ext i hi
  rw [BitVec.getElem_extractLsb', BitVec.getLsbD_append]
  simp [hi]

/-! ### The round trips -/

theorem decode_encodeWrite (a : BusAddr) (d : Byte) : decode (encodeWrite a d) = .ok (decodeWrite a d) := by
  rw [encodeWrite, decode, decodeBus_write]

theorem decode_encodeRead (a : BusAddr) (d : Byte) : decode (encodeRead a d) = .ok (decodeRead a d) := by
  rw [encodeRead, decode, decodeBus_read]

/-- Settles O1: a bus word decodes by its address, and for CTRL by its data; a legal round leaves ten or eleven words. -/
theorem decodingAnEncodedInstructionReturnsIt : Obligations.DecodingAnEncodedInstructionReturnsIt := by
  intro i hwf
  cases i
  case busIdle x => rw [encode, decode, decodeBus_idle]
  case wrCtrlNop x => rw [encode, decode_encodeWrite, decodeWrite_ctrl, decodeCtrl_nop]
  case startEnc x => rw [encode, decode_encodeWrite, decodeWrite_ctrl, decodeCtrl_startEnc]
  case startDec x => rw [encode, decode_encodeWrite, decodeWrite_ctrl, decodeCtrl_startDec]
  case startBadmode x m => rw [encode, decode_encodeWrite, decodeWrite_ctrl, decodeCtrl_startBadmode]
  case wrCount a d => rw [encode, decode_encodeWrite, decodeWrite_count]
  case wrRsvd06 a d => rw [encode, decode_encodeWrite, (decode_rsvd06 a d).1]
  case wrRsvd08 a d => rw [encode, decode_encodeWrite, (decode_rsvd08 a d).1]
  case wrDout i d => rw [encode, decode_encodeWrite, (decode_dout i d).1]
  case rdRsvd06 a d => rw [encode, decode_encodeRead, (decode_rsvd06 a d).2]
  case rdRsvd08 a d => rw [encode, decode_encodeRead, (decode_rsvd08 a d).2]
  case rdDout i d => rw [encode, decode_encodeRead, (decode_dout i d).2]
  case wrKeyData d | wrDinData d | wrStatus d =>
    rw [encode, decode_encodeWrite]
    rfl
  case rdCtrl d | rdStatus d | rdKeyCount d | rdDinCount d | rdKeyData d | rdDinData d =>
    rw [encode, decode_encodeRead]
    rfl
  case keyexp k | ark k =>
    revert k
    decide
  case sb | isb | sr | isr | mc | imc | out => rfl

theorem wf_of_format_bus {i : Instr} (h : i.format = .bus) : i.wf = true := by
  cases i
  case keyexp | ark | sb | isb | sr | isr | mc | imc | out => cases h
  all_goals rfl

/-- A micro-op word that decodes is the word of a well-formed micro-op. -/
theorem encode_of_decodeUop {w : UopWord} {i : Instr} (h : decodeUop w = .ok i) : encode i = .uop w ∧ i.wf = true := by
  rcases decodeUop_cases h with ⟨j, rfl, rfl⟩ | ⟨r, rfl, rfl⟩ | ⟨rfl, rfl⟩ | ⟨rfl, rfl⟩ | ⟨rfl, rfl⟩ |
    ⟨rfl, rfl⟩ | ⟨rfl, rfl⟩ | ⟨rfl, rfl⟩ | ⟨rfl, rfl⟩
  · revert j
    decide
  · revert r
    decide
  all_goals exact ⟨rfl, rfl⟩

/-- Settles O2: no bit of a bus word is dropped, and a micro-op word that decodes is one of 28. -/
theorem encodingADecodedWordReturnsIt : Obligations.EncodingADecodedWordReturnsIt := by
  intro c i h
  cases c with
  | bus w =>
    obtain rfl : decodeBus w = i := Except.ok.inj h
    exact ⟨encode_decodeBus w, wf_of_format_bus (format_of_encode_bus (encode_decodeBus w))⟩
  | uop w => exact encode_of_decodeUop h

/-! ### Reserved words -/

/-- The four cases of R79, over the 256 words. -/
theorem decodeUop_rejects_iff : ∀ w : UopWord, (decodeUop w).isOk = false ↔
    ((uopOpc w = 0x0 ∨ 0xA ≤ uopOpc w) ∨
      (uopOpc w = 0x1 ∧ (uopArg w = 0 ∨ 11 ≤ uopArg w)) ∨
      (uopOpc w = 0x2 ∧ 11 ≤ uopArg w) ∨
      (0x3 ≤ uopOpc w ∧ uopOpc w ≤ 0x9 ∧ uopArg w ≠ 0)) := by
  decide

theorem decodeUop_prog_isOk (m : Mode) : ∀ n : Fin 51, (decodeUop (prog m)[n]).isOk = true := by
  cases m <;> decide

theorem exec_keyexp_reserved {k : BitVec 4} (h : (Instr.keyexp k).wf = false) (s : State) :
    exec (.keyexp k) s = .fault (.reservedMicroOp s.upc (0x1#4 ++ k)) := by
  have hround : keyexpSource k = none := dif_neg (of_decide_eq_false h)
  rw [exec, execKeyexp, hround]
  rfl

theorem exec_ark_reserved {r : BitVec 4} (h : (Instr.ark r).wf = false) (s : State) :
    exec (.ark r) s = .fault (.reservedMicroOp s.upc (0x2#4 ++ r)) := by
  have hround : arkRound r = none := dif_neg (of_decide_eq_false h)
  rw [exec, execArk, hround]
  rfl

/-- Settles O4: the words by enumeration, and a round outside the operand's range has no meaning to run. -/
theorem reservedMicroOpWords : Obligations.ReservedMicroOpWords :=
  ⟨decodeUop_rejects_iff, decodeUop_prog_isOk, fun _ s h => exec_keyexp_reserved h s, fun _ s h => exec_ark_reserved h s⟩

/-- Settles O5: fixed words, decoded one by one. -/
theorem wordsOfTheSpecDecode : Obligations.WordsOfTheSpecDecode := by
  unfold Obligations.WordsOfTheSpecDecode
  decide

end Sys2Proof
end

section
/-! What runs in a cycle (R160, R163; logs 1 and 8): the bus word in IDLE, the fetched micro-op in RUN, and a placed word. -/

namespace Sys2Proof.Machine

/-! ### The cycle the host drives -/

/-- Settles O6: without reset the edge in IDLE is the decoded bus word. -/
theorem stepInIdleRunsTheBusWord : Obligations.StepInIdleRunsTheBusWord := by
  intro s c h hs hr hp
  obtain ⟨hnext, htake⟩ := nextCycle_of_cons hs
  rw [step, hnext, htake, edge, if_neg (by simp [hr])]
  simp only [hp]

/-- Settles O8: the cycle taken is the idle one in both, and the list is empty afterwards. -/
theorem emptyHostListIsAnIdleHost : Obligations.EmptyHostListIsAnIdleHost := by
  intro s hs
  have hnext : nextCycle s = idleCycle := by rw [nextCycle, hs]
  have htake : takeCycle s = { s with host := [] } := by rw [takeCycle, hs, List.tail_nil]
  rw [step, hnext, htake]
  rfl

/-! ### The fetch -/

theorem runStep_of_fetch {s : State} {w : UopWord} {i : Instr} (hw : progWord s.modeR s.upc = some w)
    (hi : decodeUop w = .ok i) : runStep s = exec i s := by
  simp only [runStep, fetchUop, hw, hi]

/-- Above UPC 50 there is no word to run (U9). -/
theorem runStep_above_program {s : State} (h : 50 < s.upc.toNat) : runStep s = .fault (.noRomWord s.upc) := by
  simp only [runStep, fetchUop, progWord_none.mpr h]

/-- Settles O7: without reset the edge in RUN drives `rdata` and runs the micro-op the fetch finds. -/
theorem stepInRunRunsTheFetchedMicroOp : Obligations.StepInRunRunsTheFetchedMicroOp := by
  intro s c h w i hs hr hp hw hi
  obtain ⟨rfl, htake⟩ := nextCycle_of_cons hs
  rw [step_of_run hr hp, htake]
  exact runStep_of_fetch (s := drive _ { s with host := h }) hw hi

/-- Settles O11: the fetch finds no word. -/
theorem fetchAboveTheProgramFaults : Obligations.FetchAboveTheProgramFaults := by
  intro s c h hs hr hp hupc
  obtain ⟨rfl, -⟩ := nextCycle_of_cons hs
  rw [step_of_run hr hp]
  exact runStep_above_program (s := drive _ (takeCycle s)) hupc

/-! ### Placed words -/

/-- Every word that decodes stands in ROM, at the place that is found for it (log 8). -/
theorem romPlace_of_decodes : ∀ w : UopWord, (decodeUop w).isOk = true →
    (romPlace w).any (fun p => decide (progWord p.1 p.2 = some w)) = true := by
  decide

theorem placeUop_of_romPlace {w : UopWord} {m : Mode} {n : BitVec 6} (h : romPlace w = some (m, n)) (s : State) :
    placeUop s w = { s with phase := .run, modeR := m, upc := n, host := idleCycle :: s.host } := by
  rw [placeUop, h]

/-- Settles O12: the placed word is the one that the next step takes from the list, or fetches from its place. -/
theorem placedWordRunsNext : Obligations.PlacedWordRunsNext := by
  refine ⟨fun s w => ?_, fun s w i hi => ?_⟩
  · exact stepInIdleRunsTheBusWord (placeBus s w) { rst := false, word := w } s.host rfl rfl rfl
  · have hrom := romPlace_of_decodes w (by rw [hi]; rfl)
    rw [Option.any_eq_true] at hrom
    obtain ⟨⟨m, n⟩, hplace, hword⟩ := hrom
    have hfetch : progWord m n = some w := of_decide_eq_true hword
    refine ⟨m, n, hfetch, ?_⟩
    rw [placeUop_of_romPlace hplace]
    exact stepInRunRunsTheFetchedMicroOp _ idleCycle s.host w i rfl rfl rfl hfetch hi

end Sys2Proof.Machine
end

section
/-! The bus operations one by one (45_host_interface.md section 2): pushes, cycles without effect, START and reads. -/

namespace Sys2Proof.Machine

/-! ### Pushes -/

/-- Settles O13: the push stores at the count and bumps it in IDLE, and is dropped in RUN. -/
theorem keyPushStoresOneByteAndCounts : Obligations.KeyPushStoresOneByteAndCounts := by
  intro s d
  refine ⟨decodeBus_write 0x04 d, fun hp => ⟨_, hostWrite_idle hp (pushKey d), fun j => ?_, fun k hk => ?_,
    bumpCount_toNat s.keyCnt, rfl⟩, fun hp => hostWrite_run hp (pushKey d)⟩
  · have hfirst : (drive 0x00 (pushKey d s)).sched[0] = storePush s.sched[0] s.keyCnt d :=
      Vector.getElem_set_self (by decide)
    rw [hfirst]
    exact storePush_get s.sched[0] s.keyCnt d j
  · exact Vector.getElem_set_ne (by decide) k.isLt fun h => hk (Fin.ext h.symm)

/-- Settles O14: the push stores at the count and bumps it in IDLE, and is dropped in RUN. -/
theorem blockPushStoresOneByteAndCounts : Obligations.BlockPushStoresOneByteAndCounts := by
  intro s d
  exact ⟨decodeBus_write 0x05 d, fun hp => ⟨_, hostWrite_idle hp (pushDin d), storePush_get s.state s.dinCnt d,
    bumpCount_toNat s.dinCnt, rfl⟩, fun hp => hostWrite_run hp (pushDin d)⟩

/-- Settles O15: each of the operations is a write cycle without effect. -/
theorem cyclesWithoutEffect : Obligations.CyclesWithoutEffect := fun s =>
  ⟨fun _ => hostWrite_id s, fun _ => hostWrite_id s, fun _ => hostWrite_id s, fun _ _ => hostWrite_id s,
    fun _ _ => hostWrite_id s, fun _ _ => hostWrite_id s, fun _ _ => hostWrite_id s⟩

/-! ### START -/

theorem start_of_startCheck_none {s : State} {mode : BitVec 2} (h : startCheck s mode = .none) :
    start mode s = acceptCall mode s := by
  rw [start, h]

theorem start_of_startCheck_ne_none {s : State} {mode : BitVec 2} (h : startCheck s mode ≠ .none) :
    start mode s = recordError (startCheck s mode) s := by
  rcases start_cases mode s with ⟨hnone, -⟩ | ⟨-, hstart⟩
  · exact absurd hnone h
  · exact hstart

/-- Settles O19: a full load passes the check for the modes 00 and 01. -/
theorem startWithAFullLoadIsAccepted : Obligations.StartWithAFullLoadIsAccepted := by
  intro s x hp hk hd
  have henc := start_of_startCheck_none ((startCheck_none s 0b00).mpr ⟨hk, hd, rfl⟩)
  have hdec := start_of_startCheck_none ((startCheck_none s 0b01).mpr ⟨hk, hd, rfl⟩)
  constructor
  · rw [exec, execStartEnc, hostWrite_idle hp, henc]
    rfl
  · rw [exec, execStartDec, hostWrite_idle hp, hdec]
    rfl

theorem badMode_msb : ∀ m : BitVec 1, (badMode m).getLsbD 1 = true := by decide

/-- Settles O20: MODE[1] is set, so the check answers a code, the one of the first branch that applies. -/
theorem startWithABadModeIsRejected : Obligations.StartWithABadModeIsRejected := by
  intro s x m hp
  have hcheck : startCheck s (badMode m) ≠ .none := fun h => by
    obtain ⟨-, -, hmode⟩ := (startCheck_none s (badMode m)).mp h
    rw [badMode_msb] at hmode
    cases hmode
  have hexec : exec (.startBadmode x m) s = .next (drive 0x00 (recordError (startCheck s (badMode m)) s)) := by
    rw [exec, execStartBadmode, hostWrite_idle hp, start_of_startCheck_ne_none hcheck]
  exact ⟨_, hexec, rfl, fun hk => startCheck_of_keyCnt_ne hk _, fun hk hd => startCheck_of_dinCnt_ne hk hd _,
    fun hk hd => startCheck_of_bad_mode hk hd (badMode_msb m)⟩

/-! ### Reads -/

/-- Settles O23: each read drives its value and nothing else; the counts are zero-extended and DOUT is indexed. -/
theorem readsAnswerAndChangeNothing : Obligations.ReadsAnswerAndChangeNothing := by
  intro s x
  refine ⟨rfl, rfl, rfl, fun _ => rfl, fun _ => rfl, rfl, ?_, ?_, fun i => ?_⟩
  · rw [← zext8_eq_append]
    rfl
  · rw [← zext8_eq_append]
    rfl
  · rw [← doutByte_ofNat]
    rfl

/-- Settles O24: the fields of the concatenation, bit by bit. -/
theorem statusBits : Obligations.StatusBits := by
  intro s
  have hfields : ∀ (e : BitVec 2) (d b : Bool),
      (0b0000#4 ++ e ++ BitVec.ofBool d ++ BitVec.ofBool b).getLsbD 0 = b ∧
      (0b0000#4 ++ e ++ BitVec.ofBool d ++ BitVec.ofBool b).getLsbD 1 = d ∧
      (0b0000#4 ++ e ++ BitVec.ofBool d ++ BitVec.ofBool b).extractLsb' 2 2 = e ∧
      (0b0000#4 ++ e ++ BitVec.ofBool d ++ BitVec.ofBool b).extractLsb' 4 4 = 0 := by decide
  exact hfields s.err.bits s.done (busy s)

theorem statusByte_of_run {s : State} (hp : s.phase = .run) (hd : s.done = false) (he : s.err = .none) :
    statusByte s = 0x01 := by
  simp [statusByte, busy, hp, hd, he, ErrCode.bits]

theorem statusByte_of_done {s : State} (hp : s.phase = .idle) (hd : s.done = true) (he : s.err = .none) :
    statusByte s = 0x02 := by
  simp [statusByte, busy, hp, hd, he, ErrCode.bits]

theorem statusByte_of_idle {s : State} (hp : s.phase = .idle) (hd : s.done = false) :
    statusByte s = 0b0000#4 ++ s.err.bits ++ 0b00#2 := by
  cases he : s.err <;> simp [statusByte, busy, hp, hd, he, ErrCode.bits]

/-- Settles O25: RUN has neither DONE nor ERR, DONE has no ERR, and otherwise ERR is one of four. -/
theorem statusTakesSixValues : Obligations.StatusTakesSixValues := by
  intro s hinv
  cases hp : s.phase with
  | run =>
    obtain ⟨hd, he, -, -⟩ := hinv.run_clear hp
    exact .inr (.inl (statusByte_of_run hp hd he))
  | idle =>
    cases hd : s.done with
    | true => exact .inr (.inr (.inl (statusByte_of_done hp hd (hinv.done_noErr hd))))
    | false =>
      rw [statusByte_of_idle hp hd]
      cases s.err <;> decide

end Sys2Proof.Machine
end

section
/-! The micro-ops KEYEXP, ARK and OUT (R132, R147, R164), what all micro-ops keep (R140), the micro-programs (R161, R162), and
the construction of SBOX (R101). -/

namespace Sys2Proof.Machine

/-! ### KEYEXP, ARK and OUT -/

theorem exec_keyexp_legal (j : Fin 10) (s : State) :
    exec (.keyexp (BitVec.ofNat 4 (j.val + 1))) s =
      .next (advance { s with sched := s.sched.set (j.val + 1) (expandRound s.sched[j.val] (j.val + 1)) }) :=
  execKeyexp_legal j s

theorem exec_ark_legal (r : Fin 11) (s : State) :
    exec (.ark (BitVec.ofNat 4 r.val)) s = .next (advance { s with state := addRoundKey s.sched[r] s.state }) :=
  execArk_legal r s

theorem decodeUop_keyexp : ∀ j : Fin 10,
    decodeUop (BitVec.ofNat 8 (0x11 + j.val)) = .ok (.keyexp (BitVec.ofNat 4 (j.val + 1))) := by decide

theorem decodeUop_ark : ∀ r : Fin 11,
    decodeUop (BitVec.ofNat 8 (0x20 + r.val)) = .ok (.ark (BitVec.ofNat 4 r.val)) := by decide

/-- Settles O33: ARK r is AddRoundKey with round key r, which undoes itself. -/
theorem addRoundKeyMicroOp : Obligations.AddRoundKeyMicroOp := by
  intro s r
  exact ⟨decodeUop_ark r, _, _, exec_ark_legal r s, fun i => addRoundKey_get s.sched[r] s.state i i.isLt, rfl,
    exec_ark_legal r _, addRoundKey_addRoundKey s.sched[r] s.state⟩

/-- Settles O34: KEYEXP writes one entry of the schedule, ExpandRound of the one before, whose bytes are those of R131. -/
theorem keyExpansionMicroOp : Obligations.KeyExpansionMicroOp := by
  intro s j
  have hwritten : (s.sched.set (j.val + 1) (expandRound s.sched[j.val] (j.val + 1)))[j.val + 1] =
      expandRound s.sched[j.val] (j.val + 1) := Vector.getElem_set_self _
  refine ⟨decodeUop_keyexp j, _, exec_keyexp_legal j s, hwritten, ?_, fun k hk => ?_, rfl⟩
  · rw [← rcon_succ]
    have hnext := nextRoundKey_expandRound s.sched[j.val] (j.val + 1)
    rw [← hwritten] at hnext
    exact hnext
  · exact Vector.getElem_set_ne (Nat.succ_lt_succ j.isLt) k.isLt fun h => hk (Fin.ext h.symm)

/-- Settles O35: the word decodes to OUT, and OUT completes the call. -/
theorem outMicroOp : Obligations.OutMicroOp := ⟨rfl, fun _ => rfl⟩

/-! ### Micro-ops on the bus -/

/-- An instruction with a reserved round never answers a next state (R79, R167). -/
theorem wf_of_exec {i : Instr} {s t : State} (h : exec i s = .next t) : i.wf = true := by
  by_contra hwf
  rw [Bool.not_eq_true] at hwf
  cases i
  case keyexp k =>
    rw [exec_keyexp_reserved hwf] at h
    cases h
  case ark r =>
    rw [exec_ark_reserved hwf] at h
    cases h
  all_goals cases hwf

theorem encode_of_format_uop {i : Instr} (h : i.format = .uop) : ∃ w, encode i = .uop w := by
  cases i
  case keyexp | ark | sb | isb | sr | isr | mc | imc | out => exact ⟨_, rfl⟩
  all_goals cases h

/-- A micro-op that answers a next state has a word that decodes to it. -/
theorem decodes_of_exec {i : Instr} {s t : State} (hi : i.format = .uop) (h : exec i s = .next t) :
    ∃ w, decodeUop w = .ok i := by
  obtain ⟨w, hw⟩ := encode_of_format_uop hi
  have hdecode := decodingAnEncodedInstructionReturnsIt i (wf_of_exec h)
  rw [hw] at hdecode
  exact ⟨w, hdecode⟩

/-- Settles O36: a round micro-op touches STATE and UPC, KEYEXP the schedule and UPC, and no read answers any of them. -/
theorem roundMicroOpsAreInvisibleOnTheBus : Obligations.RoundMicroOpsAreInvisibleOnTheBus := by
  intro i s t hformat hout hexec a
  obtain ⟨w, hw⟩ := decodes_of_exec hformat hexec
  rcases exec_uop_cases hw s with ⟨j, -, he⟩ | ⟨f, -, -, he⟩ | ⟨rfl, -⟩
  · rw [he] at hexec
    cases hexec
    rfl
  · rw [he] at hexec
    cases hexec
    rfl
  · exact absurd (Except.ok.inj hw).symm hout

/-! ### The micro-programs -/

theorem prog_keyexp (m : Mode) :
    ∀ n : Fin 10, decodeUop (prog m)[n.val] = .ok (.keyexp (BitVec.ofNat 4 (n.val + 1))) := by
  cases m <;> decide

theorem prog_no_late_keyexp (m : Mode) : ∀ n : Fin 51, 10 ≤ n.val → uopOpc (prog m)[n] ≠ 0x1 := by
  cases m <;> decide

theorem prog_out (m : Mode) : ∀ n : Fin 51, (prog m)[n] = 0x90 ↔ n.val = 50 := by
  cases m <;> decide

/-- The nine middle rounds of R161 and R162. -/
theorem prog_middle_rounds : ∀ j : Fin 9,
    decodeUop ENC_PROG[11 + 4 * j.val] = .ok .sb ∧ decodeUop ENC_PROG[12 + 4 * j.val] = .ok .sr ∧
    decodeUop ENC_PROG[13 + 4 * j.val] = .ok .mc ∧
    decodeUop ENC_PROG[14 + 4 * j.val] = .ok (.ark (BitVec.ofNat 4 (j.val + 1))) ∧
    decodeUop DEC_PROG[11 + 4 * j.val] = .ok .isr ∧ decodeUop DEC_PROG[12 + 4 * j.val] = .ok .isb ∧
    decodeUop DEC_PROG[13 + 4 * j.val] = .ok (.ark (BitVec.ofNat 4 (9 - j.val))) ∧
    decodeUop DEC_PROG[14 + 4 * j.val] = .ok .imc := by
  decide

/-- Settles O45: the words of the two ROMs, place by place. -/
theorem microProgramListing : Obligations.MicroProgramListing :=
  ⟨prog_keyexp, prog_no_late_keyexp, prog_out, rfl, rfl, prog_middle_rounds, rfl, rfl, rfl, rfl, rfl, rfl⟩

/-! ### The construction of SBOX -/

/-- `gfInverse` undoes the affine map, byte by byte. -/
theorem sbox_eq_affine_gfInverse : ∀ b : Byte, b ≠ 0 → sbox b = affine (gfInverse b) := by decide

/-- Settles O38: a byte with an inverse is not zero, and its inverse is the one `gfInverse` names. -/
theorem sboxIsTheAffineMapOfTheInverse : Obligations.SboxIsTheAffineMapOfTheInverse := by
  refine ⟨by decide, fun b c h => ?_⟩
  have hne : b ≠ 0 := by
    rintro rfl
    rw [gfMultiply_comm, BitVec.ofNat_eq_ofNat, gfMultiply_zero] at h
    cases h
  rw [gfMultiply_inverse_unique h (gfMultiply_gfInverse b hne)]
  exact sbox_eq_affine_gfInverse b hne

end Sys2Proof.Machine
end

section
/-! Loading (45_host_interface.md sections 2 and 3): what cycles without reset and START do in IDLE. The two buffers take the
bytes that the cycles push, in their order, and the rest of what the host can see stays. -/

namespace Sys2Proof.Machine

/-! ### Several pushes -/

/-- A buffer and its count after the pushes of the bytes `ds`, in order (R185, R186). -/
def pushAll : List Byte → Block × BitVec 5 → Block × BitVec 5
  | [], buf => buf
  | d :: ds, buf => pushAll ds (storePush buf.1 buf.2 d, bumpCount buf.2)

@[simp] theorem pushAll_cons (d : Byte) (ds : List Byte) (buf : Block × BitVec 5) :
    pushAll (d :: ds) buf = pushAll ds (storePush buf.1 buf.2 d, bumpCount buf.2) := rfl

theorem pushAll_append (ds es : List Byte) (buf : Block × BitVec 5) :
    pushAll (ds ++ es) buf = pushAll es (pushAll ds buf) := by
  induction ds generalizing buf with
  | nil => rfl
  | cons d ds ih => exact ih _

/-- The count saturates at 17 (R23). -/
theorem pushAll_count (ds : List Byte) {buf : Block × BitVec 5} (h : buf.2.toNat ≤ 17) :
    (pushAll ds buf).2.toNat = min (buf.2.toNat + ds.length) 17 := by
  induction ds generalizing buf with
  | nil => exact (Nat.min_eq_left h).symm
  | cons d ds ih =>
    rw [pushAll_cons, ih (by simp), List.length_cons, bumpCount_toNat]
    omega

/-- Bytes below the count are not written any more. -/
theorem pushAll_get_below (ds : List Byte) {buf : Block × BitVec 5} {j : Fin 16} (h : j.val < buf.2.toNat) :
    (pushAll ds buf).1[j] = buf.1[j] := by
  induction ds generalizing buf with
  | nil => rfl
  | cons d ds ih =>
    have hj := j.isLt
    rw [pushAll_cons, ih (by rw [bumpCount_toNat]; omega), storePush_get, if_neg (by omega)]

/-- The `n`-th byte pushed stands `n` places above the count of before, as long as it fits. -/
theorem pushAll_get {ds : List Byte} {buf : Block × BitVec 5} {n : Nat} (hn : n < ds.length) {j : Fin 16}
    (hj : j.val = buf.2.toNat + n) : (pushAll ds buf).1[j] = ds[n] := by
  have hlt := j.isLt
  induction ds generalizing buf n with
  | nil => cases hn
  | cons d ds ih =>
    rw [pushAll_cons]
    cases n with
    | zero =>
      rw [pushAll_get_below ds (by rw [bumpCount_toNat]; omega), storePush_get, if_pos (by omega)]
      rfl
    | succ n => exact ih (Nat.lt_of_succ_lt_succ hn) (by rw [bumpCount_toNat]; omega)

/-- 16 pushes from count 0 fill the buffer, whatever it held. -/
theorem pushAll_full (b key : Block) : pushAll key.toList (b, 0) = (key, 16) := by
  have hbytes : (pushAll key.toList (b, 0)).1 = key := block_ext fun i => by
    rw [pushAll_get (n := i.val) (by simp) (by simp)]
    simp
  have hcount : (pushAll key.toList (b, 0)).2 = 16 := BitVec.eq_of_toNat_eq (by
    rw [pushAll_count key.toList (by simp)]
    simp)
  exact Prod.ext hbytes hcount

/-- Buffers that agree below their count agree so after a push as well. -/
theorem storePush_agree {a b : Block} {cnt : BitVec 5} (h : ∀ j : Fin 16, j.val < cnt.toNat → a[j] = b[j]) (d : Byte)
    (j : Fin 16) (hj : j.val < (bumpCount cnt).toNat) : (storePush a cnt d)[j] = (storePush b cnt d)[j] := by
  rw [bumpCount_toNat] at hj
  rw [storePush_get, storePush_get]
  split
  next => rfl
  next hne => exact h j (by omega)

/-- What the bytes below the count are after several pushes depends on no byte that was above the count before. -/
theorem pushAll_agree (ds : List Byte) {a b : Block} {cnt : BitVec 5}
    (h : ∀ j : Fin 16, j.val < cnt.toNat → a[j] = b[j]) :
    (pushAll ds (a, cnt)).2 = (pushAll ds (b, cnt)).2 ∧
      ∀ j : Fin 16, j.val < (pushAll ds (a, cnt)).2.toNat → (pushAll ds (a, cnt)).1[j] = (pushAll ds (b, cnt)).1[j] := by
  induction ds generalizing a b cnt with
  | nil => exact ⟨rfl, h⟩
  | cons d ds ih => exact ih (storePush_agree h d)

/-! ### The bytes that cycles write -/

theorem writtenTo_cons (a : BusAddr) (c : HostCycle) (cs : List HostCycle) :
    writtenTo a (c :: cs) = writtenTo a [c] ++ writtenTo a cs := by
  rw [writtenTo, ← List.singleton_append, List.filter_append, List.map_append]
  rfl

theorem writtenTo_of_isWriteTo {a : BusAddr} {c : HostCycle} (h : isWriteTo a c.word = true) :
    writtenTo a [c] = [busWdata c.word] := by
  simp [writtenTo, h]

theorem writtenTo_of_not_isWriteTo {a : BusAddr} {c : HostCycle} (h : isWriteTo a c.word = false) :
    writtenTo a [c] = [] := by
  simp [writtenTo, h]

/-! ### Loads -/

/-- `t` is `s` after the host's `cycles` loaded: each buffer took its pushes, and the flags, DOUT and PHASE stayed. -/
structure Loads (s : State) (cycles : List HostCycle) (t : State) : Prop where
  key : (t.sched[0], t.keyCnt) = pushAll (writtenTo 0x04 cycles) (s.sched[0], s.keyCnt)
  block : (t.state, t.dinCnt) = pushAll (writtenTo 0x05 cycles) (s.state, s.dinCnt)
  dout : t.dout = s.dout
  phase : t.phase = s.phase
  done : t.done = s.done
  err : t.err = s.err
  host : t.host = s.host.drop cycles.length

/-- A write that is no START loads (R183). -/
theorem loads_busWrite {s : State} {c : HostCycle} (hsel : busSel c.word = true) (hwe : busWe c.word = true)
    (hw : isStart c.word = false) (v : Byte) :
    Loads s [c] (drive v (busWrite (takeCycle s) (busAddr c.word) (busWdata c.word))) := by
  have hto (a : BusAddr) : isWriteTo a c.word = decide (busAddr c.word = a) := by simp [isWriteTo, hsel, hwe]
  rcases busWrite_cases (takeCycle s) (busAddr c.word) (busWdata c.word) with
    ⟨ha, hctrl, -⟩ | ⟨ha, he⟩ | ⟨ha, he⟩ | ⟨-, hkey, hdin, he⟩
  · simp [isStart, hto, ha, hctrl] at hw
  · have hkey := writtenTo_of_isWriteTo ((hto 0x04).trans (decide_eq_true ha))
    have hdin := writtenTo_of_not_isWriteTo (a := 0x05) (c := c) (by simp [hto, ha])
    have hfirst : (pushKey (busWdata c.word) (takeCycle s)).sched[0] = storePush s.sched[0] s.keyCnt (busWdata c.word) :=
      Vector.getElem_set_self (by decide)
    rw [he]
    exact ⟨by rw [hkey, drive_sched, hfirst]; rfl, by rw [hdin]; rfl, rfl, rfl, rfl, rfl, List.drop_one.symm⟩
  · have hkey := writtenTo_of_not_isWriteTo (a := 0x04) (c := c) (by simp [hto, ha])
    have hdin := writtenTo_of_isWriteTo ((hto 0x05).trans (decide_eq_true ha))
    rw [he]
    exact ⟨by rw [hkey]; rfl, by rw [hdin]; rfl, rfl, rfl, rfl, rfl, List.drop_one.symm⟩
  · have hkey := writtenTo_of_not_isWriteTo ((hto 0x04).trans (decide_eq_false hkey))
    have hdin := writtenTo_of_not_isWriteTo ((hto 0x05).trans (decide_eq_false hdin))
    rw [he]
    exact ⟨by rw [hkey]; rfl, by rw [hdin]; rfl, rfl, rfl, rfl, rfl, List.drop_one.symm⟩

/-- A cycle that carries no write loads nothing. -/
theorem loads_noWrite {s : State} {c : HostCycle} (hw : (busSel c.word && busWe c.word) = false) (v : Byte) :
    Loads s [c] (drive v (takeCycle s)) := by
  have hto (a : BusAddr) : isWriteTo a c.word = false := by simp [isWriteTo, hw]
  have hwritten (a : BusAddr) : writtenTo a [c] = [] := writtenTo_of_not_isWriteTo (hto a)
  exact ⟨by rw [hwritten]; rfl, by rw [hwritten]; rfl, rfl, rfl, rfl, rfl, List.drop_one.symm⟩

/-- An edge in IDLE without reset and START loads what its cycle carries (R160, R183). -/
theorem step_load {s : State} (hr : (nextCycle s).rst = false) (hp : s.phase = .idle)
    (hw : isStart (nextCycle s).word = false) :
    ∃ t, step s = .next t ∧ t.rdata = cycleRdata s (nextCycle s).word ∧ Loads s [nextCycle s] t := by
  refine ⟨_, step_of_idle hr hp, rfl, ?_⟩
  split
  next hwrite =>
    obtain ⟨hsel, hwe⟩ := (Bool.and_eq_true _ _).mp hwrite
    exact loads_busWrite hsel hwe hw _
  next hwrite => exact loads_noWrite (Bool.eq_false_of_not_eq_true hwrite) _

theorem loads_cons {s u t : State} {c : HostCycle} {cs : List HostCycle} (hfirst : Loads s [c] u) (hrest : Loads u cs t) :
    Loads s (c :: cs) t where
  key := by rw [writtenTo_cons, pushAll_append, ← hfirst.key, hrest.key]
  block := by rw [writtenTo_cons, pushAll_append, ← hfirst.block, hrest.block]
  dout := hrest.dout.trans hfirst.dout
  phase := hrest.phase.trans hfirst.phase
  done := hrest.done.trans hfirst.done
  err := hrest.err.trans hfirst.err
  host := by rw [hrest.host, hfirst.host, List.drop_drop, List.length_singleton, List.length_cons, Nat.add_comm]

/-- A whole load, by its first cycle. -/
theorem run_load {load rest : List HostCycle} {s : State} (hp : s.phase = .idle) (hs : s.host = load ++ rest)
    (hload : loading load) : ∃ t : State, Host.Core.run Sys2Proof.core load.length s = .next t ∧ Loads s load t := by
  induction load generalizing s with
  | nil => exact ⟨s, run_zero s, rfl, rfl, rfl, rfl, rfl, rfl, rfl⟩
  | cons c cs ih =>
    obtain ⟨rfl, -⟩ := nextCycle_of_cons hs
    obtain ⟨hr, hw⟩ := hload _ List.mem_cons_self
    obtain ⟨u, hstep, -, hfirst⟩ := step_load hr hp hw
    have hhost : u.host = cs ++ rest := by rw [hfirst.host, hs]; rfl
    obtain ⟨t, hrun, hrest⟩ := ih (hfirst.phase.trans hp) hhost fun c hc => hload c (List.mem_cons_of_mem _ hc)
    exact ⟨t, (run_succ_of_step hstep cs.length).trans hrun, loads_cons hfirst hrest⟩

/-- Counts up to 17 count the pushes, and saturate (R23). -/
theorem Loads.keyCnt {s t : State} {cycles : List HostCycle} (h : Loads s cycles t) (hle : s.keyCnt.toNat ≤ 17) :
    t.keyCnt.toNat = min (s.keyCnt.toNat + (writtenTo 0x04 cycles).length) 17 := by
  rw [← pushAll_count (buf := (s.sched[0], s.keyCnt)) _ hle, ← h.key]

theorem Loads.dinCnt {s t : State} {cycles : List HostCycle} (h : Loads s cycles t) (hle : s.dinCnt.toNat ≤ 17) :
    t.dinCnt.toNat = min (s.dinCnt.toNat + (writtenTo 0x05 cycles).length) 17 := by
  rw [← pushAll_count (buf := (s.state, s.dinCnt)) _ hle, ← h.block]

end Sys2Proof.Machine
end

section
/-! The reachable-state invariant (R31) and what changes when (R22, R27, R215, R133): the invariant holds at reset, every edge
keeps it and it is enough for an edge to complete; DOUT, the flags, the counts and the schedule change where they should. -/

namespace Sys2Proof.Machine

/-! ### START, in IDLE -/

/-- A START clears the counts and DONE, puts the code of the check in ERR, and leaves DOUT (R191, R213). -/
theorem start_fields (mode : BitVec 2) (s : State) :
    (start mode s).keyCnt = 0 ∧ (start mode s).dinCnt = 0 ∧ (start mode s).done = false ∧
      (start mode s).err = startCheck s mode ∧ (start mode s).dout = s.dout := by
  rcases start_cases mode s with ⟨hnone, hstart⟩ | ⟨-, hstart⟩
  · rw [hstart, hnone]
    exact ⟨rfl, rfl, rfl, rfl, rfl⟩
  · rw [hstart]
    exact ⟨rfl, rfl, rfl, rfl, rfl⟩

/-- What an edge in IDLE without reset is: a load or a START. -/
theorem step_idle_cases {s t : State} (hr : (nextCycle s).rst = false) (hp : s.phase = .idle) (h : step s = .next t) :
    (isStart (nextCycle s).word = false ∧ t.rdata = cycleRdata s (nextCycle s).word ∧ Loads s [nextCycle s] t) ∨
    (isStart (nextCycle s).word = true ∧
      t = drive 0x00 (start (ctrlMode (busWdata (nextCycle s).word)) (takeCycle s))) := by
  cases hw : isStart (nextCycle s).word with
  | false =>
    obtain ⟨u, hu, hload⟩ := step_load hr hp hw
    rw [hu] at h
    cases h
    exact .inl ⟨rfl, hload⟩
  | true =>
    rw [step_start hr hp hw] at h
    cases h
    exact .inr ⟨rfl, rfl⟩

/-- Settles O54: START clears the counts, and a load counts on, which at 17 is to stay. -/
theorem loadsAreNotKept : Obligations.LoadsAreNotKept := by
  intro s t c h hs hr hp ht
  obtain ⟨rfl, -⟩ := nextCycle_of_cons hs
  rcases step_idle_cases hr hp ht with ⟨hw, -, hload⟩ | ⟨hw, rfl⟩
  · refine ⟨fun hw' => by simp [hw] at hw', fun _ hk => ?_, fun _ hd => ?_⟩
    · have hcount := hload.keyCnt (by simp [hk])
      exact BitVec.eq_of_toNat_eq (by rw [hcount, hk]; simp)
    · have hcount := hload.dinCnt (by simp [hd])
      exact BitVec.eq_of_toNat_eq (by rw [hcount, hd]; simp)
  · obtain ⟨hk, hd, -⟩ := start_fields (ctrlMode (busWdata (nextCycle s).word)) (takeCycle s)
    exact ⟨fun _ => ⟨hk, hd⟩, fun hw' => by simp [hw] at hw', fun hw' => by simp [hw] at hw'⟩

/-! ### RUN -/

/-- Before OUT a RUN step writes the two buffers and UPC only (R140). -/
theorem runStep_frame {s t : State} (h : runStep s = .next t) (hne : s.upc ≠ 50) :
    ∃ b k, t = { s with state := b, sched := k, upc := s.upc + 1 } := by
  rcases runStep_cases h with ⟨j, -, rfl⟩ | ⟨f, -, -, rfl⟩ | ⟨hout, -⟩
  · exact ⟨_, _, rfl⟩
  · exact ⟨_, _, rfl⟩
  · exact absurd hout hne

/-- No RUN step writes `SCHED[0]`, and from UPC 10 on none writes the schedule (R133). -/
theorem runStep_sched {s t : State} (h : runStep s = .next t) :
    t.sched[0] = s.sched[0] ∧ (10 ≤ s.upc.toNat → t.sched = s.sched) := by
  rcases runStep_cases h with ⟨j, hj, rfl⟩ | ⟨f, -, -, rfl⟩ | ⟨-, rfl⟩
  · exact ⟨Vector.getElem_set_ne (Nat.succ_lt_succ j.isLt) (by decide) (Nat.succ_ne_zero j.val),
      fun hle => absurd j.isLt (by omega)⟩
  · exact ⟨rfl, fun _ => rfl⟩
  · exact ⟨rfl, fun _ => rfl⟩

/-- Settles O55: without reset the step in RUN is the RUN step. -/
theorem scheduleIsReadOnlyInRounds : Obligations.ScheduleIsReadOnlyInRounds := by
  intro s t c h hs hr hp ht
  obtain ⟨rfl, -⟩ := nextCycle_of_cons hs
  rw [step_of_run hr hp] at ht
  exact runStep_sched (s := drive _ (takeCycle s)) ht

/-! ### What an edge can do -/

/-- The edge at UPC 50 is OUT (R164). -/
theorem step_out {s : State} (hr : (nextCycle s).rst = false) (hp : s.phase = .run) (hout : s.upc = 50) :
    ∃ v, step s = .next { s with
      dout := s.state, done := true, phase := .idle, rdata := v, host := s.host.tail } := by
  rw [step_of_run hr hp, runStep_at_out (s := drive _ (takeCycle s)) hout]
  exact ⟨_, rfl⟩

/-- An edge is a reset, a load, a START, a micro-op before OUT, or OUT (R160, R170). -/
theorem step_edge_cases {s t : State} (h : step s = .next t) :
    (nextCycle s).rst = true ∨
    Loads s [nextCycle s] t ∨
    (s.phase = .idle ∧ isStart (nextCycle s).word = true ∧
      t = drive 0x00 (start (ctrlMode (busWdata (nextCycle s).word)) (takeCycle s))) ∨
    (∃ b k v, t = { s with state := b, sched := k, upc := s.upc + 1, rdata := v, host := s.host.tail }) ∨
    (s.phase = .run ∧ s.upc = 50 ∧ ∃ v, t = { s with
      dout := s.state, done := true, phase := .idle, rdata := v, host := s.host.tail }) := by
  cases hr : (nextCycle s).rst with
  | true => exact .inl rfl
  | false =>
    refine .inr ?_
    by_cases hp : s.phase = .run
    · refine .inr (.inr ?_)
      by_cases hout : s.upc = 50
      · obtain ⟨v, hstep⟩ := step_out hr hp hout
        rw [hstep] at h
        cases h
        exact .inr ⟨hp, hout, v, rfl⟩
      · rw [step_of_run hr hp] at h
        obtain ⟨b, k, rfl⟩ := runStep_frame (s := drive _ (takeCycle s)) h hout
        exact .inl ⟨b, k, _, rfl⟩
    · have hidle := phase_idle_of_ne_run hp
      rcases step_idle_cases hr hidle h with ⟨-, -, hload⟩ | ⟨hw, rfl⟩
      · exact .inl hload
      · exact .inr (.inl ⟨hidle, hw, rfl⟩)

/-- Settles O52: a load, a START and a micro-op before OUT keep DOUT. -/
theorem doutChangesOnlyAtOutAndReset : Obligations.DoutChangesOnlyAtOutAndReset := by
  intro s t c h hs ht hchange
  obtain ⟨rfl, -⟩ := nextCycle_of_cons hs
  rcases step_edge_cases ht with hr | hload | ⟨-, -, rfl⟩ | ⟨b, k, v, rfl⟩ | ⟨hp, hout, v, rfl⟩
  · exact .inl hr
  · exact absurd hload.dout hchange
  · obtain ⟨-, -, -, -, hdout⟩ := start_fields (ctrlMode (busWdata (nextCycle s).word)) (takeCycle s)
    exact absurd hdout hchange
  · exact absurd rfl hchange
  · exact .inr ⟨hp, progWord_out.mpr hout, rfl, rfl, rfl⟩

/-- Settles O53: a load keeps the flags and counts up, a micro-op before OUT keeps both, and OUT sets DONE. -/
theorem flagsAndCountsClearOnlyAtStartOrReset : Obligations.FlagsAndCountsClearOnlyAtStartOrReset := by
  intro s t c h hs ht hk hd
  obtain ⟨rfl, -⟩ := nextCycle_of_cons hs
  rcases step_edge_cases ht with hr | hload | ⟨hp, hw, rfl⟩ | ⟨b, k, v, rfl⟩ | ⟨hp, hout, v, rfl⟩
  · rw [step_of_reset hr] at ht
    cases ht
    exact ⟨fun _ => .inl hr, fun _ hset => by cases hset⟩
  · have hkey := hload.keyCnt hk
    have hdin := hload.dinCnt hd
    refine ⟨fun hchange => ?_, fun hclear hset => ?_⟩
    · rcases hchange with herr | ⟨hset, hclear⟩ | hfall | hfall
      · exact absurd hload.err herr
      · simp [hload.done, hset] at hclear
      · omega
      · omega
    · simp [hload.done, hclear] at hset
  · obtain ⟨-, -, hdone, -⟩ := start_fields (ctrlMode (busWdata (nextCycle s).word)) (takeCycle s)
    exact ⟨fun _ => .inr ⟨hp, hw⟩, fun _ hset => by simp [hdone] at hset⟩
  · exact ⟨fun hchange => by simp at hchange, fun hclear hset => by simp [hclear] at hset⟩
  · exact ⟨fun hchange => by simp at hchange, fun _ _ => ⟨hp, progWord_out.mpr hout⟩⟩

/-! ### The schedule in RUN -/

/-- Round key 0 is the key itself (R130). -/
theorem schedReady_of_upc_zero {s : State} (h : s.upc = 0) : schedReady s := by
  intro k hk
  obtain rfl : k = 0 := Fin.ext (by simpa [h] using hk)
  exact (roundKey_zero s.sched[0]).symm

/-- Every RUN step keeps the round keys up to UPC those of the schedule: KEYEXP adds the next one (R131, R132), and no other
micro-op writes one. -/
theorem runStep_schedReady {s t : State} (h : runStep s = .next t) (hs : schedReady s) : schedReady t := by
  obtain ⟨hkey, -⟩ := runStep_sched h
  intro k hk
  rw [hkey]
  rcases runStep_cases h with ⟨j, hj, rfl⟩ | ⟨f, hge, -, rfl⟩ | ⟨-, rfl⟩
  · have hupc : (s.upc + 1).toNat = j.val + 1 := by bv_omega
    have hle : k.val ≤ j.val + 1 := hupc ▸ hk
    by_cases hnew : k.val = j.val + 1
    · obtain rfl : k = j.succ := Fin.ext hnew
      have hlast : s.sched[j.val] = roundKey s.sched[0] j.val := hs j.castSucc (by simp [hj])
      calc (s.sched.set (j.val + 1) (expandRound s.sched[j.val] (j.val + 1)))[j.val + 1]
          = expandRound s.sched[j.val] (j.val + 1) := Vector.getElem_set_self _
        _ = roundKey s.sched[0] (j.val + 1) := by rw [hlast, roundKey_succ]
    · exact (Vector.getElem_set_ne (Nat.succ_lt_succ j.isLt) k.isLt (Ne.symm hnew)).trans (hs k (by omega))
  · exact hs k (by omega)
  · exact hs k hk

/-! ### The invariant -/

/-- In IDLE the invariant asks for the counts, and that DONE stands with no error. -/
theorem inv_of_idle {s : State} (hp : s.phase = .idle) (hk : s.keyCnt.toNat ≤ 17) (hd : s.dinCnt.toNat ≤ 17)
    (hdone : s.done = true → s.err = .none) : Inv s where
  keyCnt_le := hk
  dinCnt_le := hd
  run_upc hrun := by simp [hp] at hrun
  run_clear hrun := by simp [hp] at hrun
  done_noErr := hdone
  run_sched hrun := by simp [hp] at hrun

theorem inv_of_run {s : State} (hupc : s.upc.toNat ≤ 50) (hdone : s.done = false) (herr : s.err = .none)
    (hk : s.keyCnt = 0) (hd : s.dinCnt = 0) (hsched : schedReady s) : Inv s where
  keyCnt_le := by simp [hk]
  dinCnt_le := by simp [hd]
  run_upc _ := hupc
  run_clear _ := ⟨hdone, herr, hk, hd⟩
  done_noErr _ := herr
  run_sched _ := hsched

/-- Settles O46: after reset the counts, DONE and ERR are 0, in IDLE. -/
theorem resetMeetsTheInvariant : Obligations.ResetMeetsTheInvariant :=
  inv_of_idle rfl (by decide) (by decide) fun _ => rfl

theorem inv_resetEdge (w : BusWord) (s : State) : Inv (resetEdge w s) :=
  inv_of_idle rfl (by simp) (by simp) fun _ => rfl

/-- Settles O47: the state after the edge is that of R32, whatever the state before. -/
theorem resetEdgeEstablishesTheInvariant : Obligations.ResetEdgeEstablishesTheInvariant := by
  intro s t c h hs hr ht
  obtain ⟨rfl, -⟩ := nextCycle_of_cons hs
  rw [step_of_reset hr] at ht
  cases ht
  exact inv_resetEdge _ _

theorem inv_load {s t : State} {cycles : List HostCycle} (hs : Inv s) (hp : s.phase = .idle) (h : Loads s cycles t) :
    Inv t := by
  refine inv_of_idle (h.phase.trans hp) ?_ ?_ fun hdone => ?_
  · rw [h.keyCnt hs.keyCnt_le]
    exact Nat.min_le_right _ _
  · rw [h.dinCnt hs.dinCnt_le]
    exact Nat.min_le_right _ _
  · rw [h.err]
    exact hs.done_noErr (h.done ▸ hdone)

/-- A START in IDLE establishes the invariant, accepted or rejected. -/
theorem inv_start {s : State} (hp : s.phase = .idle) (mode : BitVec 2) (v : Byte) : Inv (drive v (start mode s)) := by
  rcases start_cases mode s with ⟨-, hstart⟩ | ⟨-, hstart⟩
  · rw [hstart]
    exact inv_of_run (by simp) rfl rfl rfl rfl (schedReady_of_upc_zero rfl)
  · rw [hstart]
    exact inv_of_idle hp (by simp) (by simp) fun hdone => by cases hdone

theorem inv_runStep {s t : State} (hs : Inv s) (hp : s.phase = .run) (h : runStep s = .next t) : Inv t := by
  obtain ⟨hdone, herr, hk, hd⟩ := hs.run_clear hp
  by_cases hout : s.upc = 50
  · rw [runStep_at_out hout] at h
    cases h
    exact inv_of_idle rfl hs.keyCnt_le hs.dinCnt_le fun _ => herr
  · have hupc : (s.upc + 1).toNat ≤ 50 := by
      have hle := hs.run_upc hp
      bv_omega
    have hready := runStep_schedReady h (hs.run_sched hp)
    obtain ⟨b, k, rfl⟩ := runStep_frame h hout
    exact inv_of_run hupc hdone herr hk hd hready

/-- The invariant is not about `rdata` or the host's coming cycles. -/
theorem inv_drive_takeCycle {s : State} (hs : Inv s) (v : Byte) : Inv (drive v (takeCycle s)) where
  keyCnt_le := hs.keyCnt_le
  dinCnt_le := hs.dinCnt_le
  run_upc := hs.run_upc
  run_clear := hs.run_clear
  done_noErr := hs.done_noErr
  run_sched := hs.run_sched

/-- Settles O48: reset and START establish the invariant, a load and a RUN step keep it. -/
theorem stepKeepsTheInvariant : Obligations.StepKeepsTheInvariant := by
  intro s t hs ht
  cases hr : (nextCycle s).rst with
  | true =>
    rw [step_of_reset hr] at ht
    cases ht
    exact inv_resetEdge _ _
  | false =>
    cases hp : s.phase with
    | idle =>
      rcases step_idle_cases hr hp ht with ⟨-, -, hload⟩ | ⟨-, rfl⟩
      · exact inv_load hs hp hload
      · exact inv_start (s := takeCycle s) hp _ _
    | run =>
      rw [step_of_run hr hp] at ht
      exact inv_runStep (inv_drive_takeCycle hs _) hp ht

/-- Under the invariant every edge completes: UPC does not leave the program (R216). -/
theorem step_completes {s : State} (hs : Inv s) : ∃ t, step s = .next t := by
  cases hr : (nextCycle s).rst with
  | true => exact ⟨_, step_of_reset hr⟩
  | false =>
    cases hp : s.phase with
    | idle => exact ⟨_, step_of_idle hr hp⟩
    | run =>
      rw [step_of_run hr hp]
      exact runStep_completes (s := drive _ (takeCycle s)) (hs.run_upc hp)

/-- Settles O49: by induction on the edges, each of which completes and keeps the invariant. -/
theorem noRunFromTheInvariantStops : Obligations.NoRunFromTheInvariantStops := by
  intro s n hs
  induction n generalizing s with
  | zero => exact ⟨s, run_zero s, hs⟩
  | succ n ih =>
    obtain ⟨u, hstep⟩ := step_completes hs
    obtain ⟨t, hrun, ht⟩ := ih u (stepKeepsTheInvariant s u hs hstep)
    exact ⟨t, (run_succ_of_step hstep n).trans hrun, ht⟩

end Sys2Proof.Machine
end

section
/-! The cipher (44_orchestrator.md section 4). Decryption undoes encryption round by round. The 51 edges of a call are ten
KEYEXP, which write the schedule of the key, forty round micro-ops, which compose to the cipher of R165 and R166, and OUT. -/

namespace Sys2Proof.Machine

/-! ### Decryption undoes encryption -/

@[simp] theorem subBytes_invSubBytes (b : Block) : subBytes (invSubBytes b) = b :=
  block_ext fun i => by simp

@[simp] theorem shiftRows_invShiftRows (b : Block) : shiftRows (invShiftRows b) = b :=
  block_ext_cell fun r c => by rw [cell_shiftRows, cell_invShiftRows, add_sub_cancel_right]

/-- A left inverse of a square matrix is a right inverse. -/
@[simp] theorem mixColumns_invMixColumns (b : Block) : mixColumns (invMixColumns b) = b :=
  mulColumns_mulColumns (mul_eq_one_comm.mp columnMatrix_invMixRow_mul) b

/-- The state between two rounds of decryption is that of encryption, SubBytes and ShiftRows later. -/
theorem decRound_encRound (key : Block) (r : Nat) (s : Block) :
    decRound key r (shiftRows (subBytes (encRound key r s))) = shiftRows (subBytes s) := by
  simp [decRound, encRound]

/-- The state between two rounds of encryption is that of decryption, InvShiftRows and InvSubBytes later. -/
theorem encRound_decRound (key : Block) (r : Nat) (s : Block) :
    encRound key r (invSubBytes (invShiftRows (decRound key r s))) = invSubBytes (invShiftRows s) := by
  simp [decRound, encRound]

/-- Rounds `f`, each undone by a round `g` up to `c`, are undone together by the rounds `g` in the opposite order. -/
theorem foldl_reverse_undo {f g : Nat → Block → Block} {c : Block → Block} (h : ∀ r s, g r (c (f r s)) = c s)
    (rs : List Nat) (s : Block) :
    rs.reverse.foldl (fun s r => g r s) (c (rs.foldl (fun s r => f r s) s)) = c s := by
  induction rs generalizing s with
  | nil => rfl
  | cons r rs ih => simp only [List.reverse_cons, List.foldl_append, List.foldl_cons, List.foldl_nil, ih, h]

theorem aesDecrypt_aesEncrypt (key p : Block) : aesDecrypt key (aesEncrypt key p) = p := by
  have hrounds := foldl_reverse_undo (c := fun s => shiftRows (subBytes s)) (decRound_encRound key)
    [1, 2, 3, 4, 5, 6, 7, 8, 9] (addRoundKey (roundKey key 0) p)
  calc aesDecrypt key (aesEncrypt key p)
      = addRoundKey (roundKey key 0) (invSubBytes (invShiftRows (shiftRows (subBytes
          (addRoundKey (roundKey key 0) p))))) := by
        rw [← hrounds, aesDecrypt, aesEncrypt, addRoundKey_addRoundKey]
        rfl
    _ = p := by simp

theorem aesEncrypt_aesDecrypt (key c : Block) : aesEncrypt key (aesDecrypt key c) = c := by
  have hrounds := foldl_reverse_undo (c := fun s => invSubBytes (invShiftRows s)) (encRound_decRound key)
    [9, 8, 7, 6, 5, 4, 3, 2, 1] (addRoundKey (roundKey key 10) c)
  calc aesEncrypt key (aesDecrypt key c)
      = addRoundKey (roundKey key 10) (shiftRows (subBytes (invSubBytes (invShiftRows
          (addRoundKey (roundKey key 10) c))))) := by
        rw [← hrounds, aesDecrypt, aesEncrypt, addRoundKey_addRoundKey]
        rfl
    _ = c := by simp

/-- Settles O44: the first and the last round cancel with each other, and so do the nine between them. -/
theorem decryptUndoesEncrypt : Obligations.DecryptUndoesEncrypt :=
  fun key p => ⟨aesDecrypt_aesEncrypt key p, aesEncrypt_aesDecrypt key p⟩

/-! ### What a micro-op does to the block -/

/-- What a micro-op does to STATE under the round keys of `sched` (R141 to R147); KEYEXP and OUT leave it. -/
def blockEffect (sched : Schedule) : Instr → Block → Block
  | .ark r =>
    match arkRound r with
    | some j => addRoundKey sched[j]
    | none => id
  | .sb => subBytes
  | .isb => invSubBytes
  | .sr => shiftRows
  | .isr => invShiftRows
  | .mc => mixColumns
  | .imc => invMixColumns
  | _ => id

/-- What several micro-ops do to STATE, one after the other. -/
def blockEffects (sched : Schedule) (l : List Instr) (b : Block) : Block := l.foldl (fun b i => blockEffect sched i b) b

@[simp] theorem blockEffects_append (sched : Schedule) (l l' : List Instr) (b : Block) :
    blockEffects sched (l ++ l') b = blockEffects sched l' (blockEffects sched l b) :=
  List.foldl_append

theorem blockEffects_flatMap {α : Type} (sched : Schedule) (f : α → List Instr) (l : List α) (b : Block) :
    blockEffects sched (l.flatMap f) b = l.foldl (fun b r => blockEffects sched (f r) b) b :=
  List.foldl_flatMap

theorem blockEffect_ark (sched : Schedule) (r : Fin 11) :
    blockEffect sched (.ark (BitVec.ofNat 4 r.val)) = addRoundKey sched[r] := by
  have hround : arkRound (BitVec.ofNat 4 r.val) = some r := by
    revert r
    decide
  rw [blockEffect, hround]

/-- A micro-op is KEYEXP, a round micro-op with its effect on STATE, or OUT; and its word tells which (R132, R140, R164). -/
theorem exec_uop_effect {w : UopWord} {i : Instr} (h : decodeUop w = .ok i) :
    (∃ j : Fin 10, w = BitVec.ofNat 8 (0x11 + j.val) ∧ i = .keyexp (BitVec.ofNat 4 (j.val + 1))) ∨
    (w ≠ 0x90 ∧ (∀ j : Fin 10, w ≠ BitVec.ofNat 8 (0x11 + j.val)) ∧
      ∀ s, exec i s = transform (blockEffect s.sched i) s) ∨
    (w = 0x90 ∧ i = .out) := by
  rcases decodeUop_cases h with ⟨j, rfl, rfl⟩ | ⟨r, rfl, rfl⟩ | ⟨rfl, rfl⟩ | ⟨rfl, rfl⟩ | ⟨rfl, rfl⟩ | ⟨rfl, rfl⟩ |
    ⟨rfl, rfl⟩ | ⟨rfl, rfl⟩ | ⟨rfl, rfl⟩
  · exact .inl ⟨j, rfl, rfl⟩
  · refine .inr (.inl ⟨by revert r; decide, by revert r; decide, fun s => ?_⟩)
    rw [exec_ark_legal, blockEffect_ark]
    rfl
  · exact .inr (.inl ⟨by decide, by decide, exec_sb⟩)
  · exact .inr (.inl ⟨by decide, by decide, exec_isb⟩)
  · exact .inr (.inl ⟨by decide, by decide, exec_sr⟩)
  · exact .inr (.inl ⟨by decide, by decide, exec_isr⟩)
  · exact .inr (.inl ⟨by decide, by decide, exec_mc⟩)
  · exact .inr (.inl ⟨by decide, by decide, exec_imc⟩)
  · exact .inr (.inr ⟨rfl, rfl⟩)

/-- What stands at a place of the program: KEYEXP below 10, OUT at 50, and a round micro-op between them (R134). -/
theorem progWord_effect {m : Mode} {n : BitVec 6} {w : UopWord} {i : Instr} (hw : progWord m n = some w)
    (hi : decodeUop w = .ok i) :
    (∃ j : Fin 10, n.toNat = j.val ∧ i = .keyexp (BitVec.ofNat 4 (j.val + 1))) ∨
    (10 ≤ n.toNat ∧ n.toNat < 50 ∧ ∀ s, exec i s = transform (blockEffect s.sched i) s) ∨
    (n = 50 ∧ i = .out) := by
  rcases exec_uop_effect hi with ⟨j, rfl, he⟩ | ⟨hout, hkeyexp, he⟩ | ⟨rfl, he⟩
  · exact .inl ⟨j, progWord_keyexp hw, he⟩
  · have hge : 10 ≤ n.toNat := by
      by_contra hlt
      rw [progWord_first_ten m (by omega)] at hw
      exact hkeyexp ⟨n.toNat, by omega⟩ (Option.some.inj hw).symm
    have hle : n.toNat ≤ 50 := by
      by_contra hgt
      rw [progWord_none.mpr (by omega)] at hw
      cases hw
    have hne : n.toNat ≠ 50 := by
      intro heq
      rw [progWord_out.mpr (BitVec.eq_of_toNat_eq heq)] at hw
      exact hout (Option.some.inj hw).symm
    exact .inr (.inl ⟨hge, by omega, he⟩)
  · exact .inr (.inr ⟨progWord_out.mp hw, he⟩)

/-! ### The forty round micro-ops -/

/-- The micro-ops at UPC 10 to 49, round by round (R161, R162). -/
def roundUops : Mode → List Instr
  | .encrypt => [.ark 0] ++ (([1, 2, 3, 4, 5, 6, 7, 8, 9] : List (Fin 11)).flatMap fun r =>
      [.sb, .sr, .mc, .ark (BitVec.ofNat 4 r.val)]) ++ [.sb, .sr, .ark 10]
  | .decrypt => [.ark 10] ++ (([9, 8, 7, 6, 5, 4, 3, 2, 1] : List (Fin 11)).flatMap fun r =>
      [.isr, .isb, .ark (BitVec.ofNat 4 r.val), .imc]) ++ [.isr, .isb, .ark 0]

/-- Both programs hold those micro-ops, place by place. -/
theorem decodeUop_roundUops (m : Mode) :
    ∀ k : Fin 40, (decodeUop (prog m)[10 + k.val]).toOption = (roundUops m)[k.val]? := by
  cases m <;> decide

theorem length_roundUops (m : Mode) : (roundUops m).length = 40 := by
  cases m <;> rfl

/-- The fetch at UPC 10 + k finds the k-th round micro-op. -/
theorem fetch_roundUops {m : Mode} {n : BitVec 6} {k : Nat} {i : Instr} (hn : n.toNat = 10 + k)
    (hi : (roundUops m)[k]? = some i) : ∃ w, progWord m n = some w ∧ decodeUop w = .ok i := by
  obtain ⟨hk, -⟩ := List.getElem?_eq_some_iff.mp hi
  rw [length_roundUops] at hk
  have hword : progWord m n = some (prog m)[10 + k] := by
    rw [progWord, dif_pos (by omega)]
    simp only [hn]
  refine ⟨_, hword, ?_⟩
  have hdecode := (decodeUop_roundUops m ⟨k, hk⟩).trans hi
  cases hw : decodeUop (prog m)[10 + k] with
  | ok j =>
    rw [hw] at hdecode
    cases hdecode
    rfl
  | error e =>
    rw [hw] at hdecode
    cases hdecode

/-- The schedule of a key, round key by round key (R130). -/
def expandedKey (key : Block) : Schedule := Vector.ofFn fun k => roundKey key k.val

@[simp] theorem expandedKey_get (key : Block) (k : Fin 11) : (expandedKey key)[k] = roundKey key k.val :=
  Vector.getElem_ofFn k.isLt

/-- ARK r under the schedule of the key. -/
theorem blockEffect_expandedKey_ark (key : Block) (r : Fin 11) :
    blockEffect (expandedKey key) (.ark (BitVec.ofNat 4 r.val)) = addRoundKey (roundKey key r.val) := by
  rw [blockEffect_ark, expandedKey_get]

theorem blockEffects_encRound (key : Block) (r : Fin 11) (b : Block) :
    blockEffects (expandedKey key) [.sb, .sr, .mc, .ark (BitVec.ofNat 4 r.val)] b = encRound key r.val b := by
  simp only [blockEffects, List.foldl_cons, List.foldl_nil, blockEffect_expandedKey_ark]
  rfl

theorem blockEffects_decRound (key : Block) (r : Fin 11) (b : Block) :
    blockEffects (expandedKey key) [.isr, .isb, .ark (BitVec.ofNat 4 r.val), .imc] b = decRound key r.val b := by
  simp only [blockEffects, List.foldl_cons, List.foldl_nil, blockEffect_expandedKey_ark]
  rfl

/-- The forty micro-ops compose to the cipher (R165, R166). -/
theorem blockEffects_roundUops (m : Mode) (key b : Block) :
    blockEffects (expandedKey key) (roundUops m) b = aes m key b := by
  have hark0 : blockEffect (expandedKey key) (.ark 0) = addRoundKey (roundKey key 0) :=
    blockEffect_expandedKey_ark key 0
  have hark10 : blockEffect (expandedKey key) (.ark 10) = addRoundKey (roundKey key 10) :=
    blockEffect_expandedKey_ark key 10
  cases m with
  | encrypt =>
    rw [roundUops, blockEffects_append, blockEffects_append, blockEffects_flatMap]
    simp only [blockEffects_encRound]
    simp only [blockEffects, List.foldl_cons, List.foldl_nil, hark0, hark10]
    rfl
  | decrypt =>
    rw [roundUops, blockEffects_append, blockEffects_append, blockEffects_flatMap]
    simp only [blockEffects_decRound]
    simp only [blockEffects, List.foldl_cons, List.foldl_nil, hark0, hark10]
    rfl

/-! ### A call -/

theorem schedReady_expandedKey {s : State} (hs : schedReady s) (h : 10 ≤ s.upc.toNat) :
    s.sched = expandedKey s.sched[0] := by
  refine Vector.ext fun k hk => ?_
  exact (hs ⟨k, hk⟩ (by omega)).trans (expandedKey_get s.sched[0] ⟨k, hk⟩).symm

theorem noReset_take_drop {h : List HostCycle} {k m n : Nat} (hle : k + m ≤ n) (hr : noReset (h.take n)) :
    noReset ((h.drop k).take m) := by
  rw [List.take_drop]
  exact fun c hc => noReset_take_mono hle hr c (List.mem_of_mem_drop hc)

/-- Below UPC 10 an edge writes the schedule, and keeps what is ready of it ready (R132). -/
theorem step_below_ten {s : State} (hr : (nextCycle s).rst = false) (hp : s.phase = .run) (hlt : s.upc.toNat < 10)
    (hs : schedReady s) :
    ∃ u, step s = .next u ∧ schedReady u ∧ u.sched[0] = s.sched[0] ∧
      u = { s with sched := u.sched, upc := s.upc + 1, rdata := u.rdata, host := s.host.tail } := by
  rw [step_of_run hr hp]
  obtain ⟨u, hu⟩ := runStep_completes (s := drive (cycleRdata s (nextCycle s).word) (takeCycle s))
    (show s.upc.toNat ≤ 50 by omega)
  refine ⟨u, hu, runStep_schedReady hu hs, (runStep_sched hu).1, ?_⟩
  rcases runStep_cases hu with ⟨j, -, rfl⟩ | ⟨-, hge, -⟩ | ⟨hout, -⟩
  · rfl
  · exact absurd hlt (Nat.not_lt.mpr hge)
  · have hupc : s.upc = 50 := hout
    simp [hupc] at hlt

/-- An edge at a round micro-op applies its effect to STATE (R140). -/
theorem step_roundUop {s : State} {i : Instr} (hr : (nextCycle s).rst = false) (hp : s.phase = .run)
    (hge : 10 ≤ s.upc.toNat) (hi : (roundUops s.modeR)[s.upc.toNat - 10]? = some i) :
    ∃ v, step s = .next { s with
      state := blockEffect s.sched i s.state, upc := s.upc + 1, rdata := v, host := s.host.tail } := by
  obtain ⟨w, hw, hdecode⟩ := fetch_roundUops (Nat.add_sub_cancel' hge).symm hi
  have hlt : s.upc.toNat - 10 < 40 := by
    rw [← length_roundUops s.modeR]
    exact (List.getElem?_eq_some_iff.mp hi).1
  have hexec : ∀ s, exec i s = transform (blockEffect s.sched i) s := by
    rcases progWord_effect hw hdecode with ⟨j, hj, -⟩ | ⟨-, -, he⟩ | ⟨hout, -⟩
    · omega
    · exact he
    · simp [hout] at hlt
  rw [step_of_run hr hp, runStep_of_fetch (s := drive _ (takeCycle s)) hw hdecode, hexec]
  exact ⟨_, rfl⟩

/-- The edges up to UPC 10 write the schedule of the key, and leave the rest but UPC, `rdata` and the host's cycles. -/
theorem run_keyexp {n : Nat} {s : State} (hp : s.phase = .run) (hn : s.upc.toNat + n = 10) (hs : schedReady s)
    (hr : noReset (s.host.take n)) :
    ∃ v, Host.Core.run Sys2Proof.core n s =
      .next { s with sched := expandedKey s.sched[0], upc := 10, rdata := v, host := s.host.drop n } := by
  induction n generalizing s with
  | zero =>
    have hupc : s.upc = 10 := BitVec.eq_of_toNat_eq hn
    have hsched := schedReady_expandedKey hs (Nat.le_of_eq hn.symm)
    refine ⟨s.rdata, ?_⟩
    rw [run_zero, ← hsched, ← hupc]
    rfl
  | succ n ih =>
    obtain ⟨hfirst, hrest⟩ := (noReset_take_succ s n).mp hr
    obtain ⟨u, hstep, hready, hkey, hframe⟩ := step_below_ten hfirst hp (by omega) hs
    have hupc : u.upc.toNat + n = 10 := by
      rw [hframe]
      show (s.upc + 1).toNat + n = 10
      bv_omega
    have hhost : u.host = s.host.tail := congrArg State.host hframe
    obtain ⟨v, hrun⟩ := ih ((congrArg State.phase hframe).trans hp) hupc hready (hhost ▸ hrest)
    refine ⟨v, (run_succ_of_step hstep n).trans (hrun.trans ?_)⟩
    rw [hkey, hhost, List.drop_tail, hframe]

/-- The edges from UPC 10 on, while the round micro-ops `l` are left, apply their effects to STATE, and leave the rest but
UPC, `rdata` and the host's cycles. -/
theorem run_roundUops {l : List Instr} {s : State} (hp : s.phase = .run) (hge : 10 ≤ s.upc.toNat)
    (hn : s.upc.toNat + l.length = 50) (hl : (roundUops s.modeR).drop (s.upc.toNat - 10) = l)
    (hr : noReset (s.host.take l.length)) :
    ∃ v, Host.Core.run Sys2Proof.core l.length s =
      .next { s with
        state := blockEffects s.sched l s.state, upc := 50, rdata := v, host := s.host.drop l.length } := by
  induction l generalizing s with
  | nil =>
    have hupc : s.upc = 50 := BitVec.eq_of_toNat_eq hn
    refine ⟨s.rdata, ?_⟩
    rw [List.length_nil, run_zero, ← hupc]
    rfl
  | cons i l ih =>
    rw [List.length_cons] at hn hr ⊢
    obtain ⟨hfirst, hrest⟩ := (noReset_take_succ s l.length).mp hr
    have hi : (roundUops s.modeR)[s.upc.toNat - 10]? = some i := by
      rw [← Nat.add_zero (s.upc.toNat - 10), ← List.getElem?_drop, hl]
      rfl
    have hnext : (s.upc + 1).toNat = s.upc.toNat + 1 := by bv_omega
    have hlater : (roundUops s.modeR).drop ((s.upc + 1).toNat - 10) = l := by
      rw [hnext, Nat.sub_add_comm hge, ← List.tail_drop, hl, List.tail_cons]
    obtain ⟨v, hstep⟩ := step_roundUop hfirst hp hge hi
    have hge' : 10 ≤ (s.upc + 1).toNat := by omega
    have hn' : (s.upc + 1).toNat + l.length = 50 := by omega
    obtain ⟨v', hrun⟩ := ih (s := { s with
      state := blockEffect s.sched i s.state, upc := s.upc + 1, rdata := v, host := s.host.tail })
      hp hge' hn' hlater hrest
    refine ⟨v', (run_succ_of_step hstep l.length).trans (hrun.trans ?_)⟩
    rw [List.drop_tail]
    rfl

/-- A whole call: ten KEYEXP, the forty micro-ops of the cipher under the schedule they wrote, and OUT. -/
theorem run_call {s : State} (hp : s.phase = .run) (hupc : s.upc = 0) (hr : noReset (s.host.take 51)) :
    ∃ v, Host.Core.run Sys2Proof.core 51 s =
      .next { s with
        state := aes s.modeR s.sched[0] s.state, sched := expandedKey s.sched[0]
        dout := aes s.modeR s.sched[0] s.state, done := true, phase := .idle, upc := 50, rdata := v
        host := s.host.drop 51 } := by
  obtain ⟨v₁, hkeyexp⟩ := run_keyexp (n := 10) hp (by simp [hupc]) (schedReady_of_upc_zero hupc)
    (noReset_take_mono (by decide) hr)
  obtain ⟨v₂, hrounds⟩ := run_roundUops (l := roundUops s.modeR)
    (s := { s with sched := expandedKey s.sched[0], upc := 10, rdata := v₁, host := s.host.drop 10 }) hp (Nat.le_refl 10)
    (by rw [length_roundUops]; rfl) rfl (by rw [length_roundUops]; exact noReset_take_drop (by decide) hr)
  rw [length_roundUops, blockEffects_roundUops] at hrounds
  have hlast : (nextCycle { s with host := (s.host.drop 10).drop 40 }).rst = false := by
    rw [List.drop_drop]
    exact ((noReset_take_succ { s with host := s.host.drop 50 } 0).mp (noReset_take_drop (by decide) hr)).1
  obtain ⟨v₃, hout⟩ := step_out (s := { s with
    state := aes s.modeR s.sched[0] s.state, sched := expandedKey s.sched[0], upc := 50, rdata := v₂
    host := (s.host.drop 10).drop 40 }) hlast hp rfl
  refine ⟨v₃, ?_⟩
  calc Host.Core.run Sys2Proof.core (10 + (40 + (0 + 1))) s
      = _ := (run_add hkeyexp).trans ((run_add hrounds).trans (run_succ_of_step hout 0))
    _ = _ := by
      rw [run_zero, List.drop_drop, List.tail_drop]

/-- Settles O57: the call computes the cipher, and its other results are those of its last state. -/
theorem runComputesTheCipher : Obligations.RunComputesTheCipher := by
  intro s hp hupc hr
  obtain ⟨v, hrun⟩ := run_call hp hupc hr
  exact ⟨_, hrun, rfl, rfl, expandedKey_get s.sched[0], rfl, rfl, rfl, rfl, rfl, rfl, rfl⟩

end Sys2Proof.Machine
end

section
/-! Calls from the host's side (R204, R212): what a START reports after any load, and that a call's result is AES-128 of the
bytes pushed. -/

namespace Sys2Proof.Machine

/-! ### START after a load -/

/-- A count that started at 0 is 16 after exactly 16 pushes. -/
theorem count_eq_sixteen_iff {cnt : BitVec 5} {n : Nat} (h : cnt.toNat = min (0 + n) 17) : cnt = 16 ↔ n = 16 := by
  rw [← BitVec.toNat_inj, h, show (16 : BitVec 5).toNat = 16 from rfl]
  omega

/-- After a load from empty buffers, the check of a START is about the numbers of bytes pushed (R212). -/
theorem startCheck_of_loads {s t : State} {load : List HostCycle} (hload : Loads s load t) (hk : s.keyCnt = 0)
    (hd : s.dinCnt = 0) (mode : BitVec 2) :
    startCheck t mode = if (writtenTo 0x04 load).length ≠ 16 then .invalidKeyLength
      else if (writtenTo 0x05 load).length ≠ 16 then .invalidBlockLength
      else if mode.getLsbD 1 then .invalidMode else .none := by
  have hkey : t.keyCnt = 16 ↔ (writtenTo 0x04 load).length = 16 := count_eq_sixteen_iff (by
    rw [hload.keyCnt (by simp [hk]), hk]
    rfl)
  have hdin : t.dinCnt = 16 ↔ (writtenTo 0x05 load).length = 16 := count_eq_sixteen_iff (by
    rw [hload.dinCnt (by simp [hd]), hd]
    rfl)
  simp only [startCheck, ne_eq, hkey, hdin]

/-- In IDLE a START enters RUN exactly when the check answers no error (R191). -/
theorem start_phase_iff {s : State} (hp : s.phase = .idle) (mode : BitVec 2) :
    (start mode s).phase = .run ↔ startCheck s mode = .none := by
  rcases start_cases mode s with ⟨hnone, hstart⟩ | ⟨hcode, hstart⟩
  · rw [hstart]
    exact iff_of_true rfl hnone
  · rw [hstart]
    exact iff_of_false (by simp [hp]) hcode

/-- Settles O22: the load counts the pushes, and the START checks the counts. -/
theorem startReportsTheLengthsPushed : Obligations.StartReportsTheLengthsPushed := by
  intro s load c h hp hk hd hs hloading hr hw
  obtain ⟨u, hrun, hload⟩ := run_load hp hs hloading
  have hhost : u.host = c :: h := by rw [hload.host, hs, List.drop_left]
  obtain ⟨rfl, -⟩ := nextCycle_of_cons hhost
  have hidle : u.phase = .idle := hload.phase.trans hp
  have hcheck := startCheck_of_loads hload hk hd (ctrlMode (busWdata (nextCycle u).word))
  obtain ⟨hkey, hdin, hdone, herr, hdout⟩ := start_fields (ctrlMode (busWdata (nextCycle u).word)) (takeCycle u)
  have hphase := start_phase_iff (s := takeCycle u) hidle (ctrlMode (busWdata (nextCycle u).word))
  refine ⟨_, (run_add hrun).trans (run_succ_of_step (step_start hr hidle hw) 0), hkey, hdin, hdone,
    hdout.trans hload.dout, herr.trans hcheck, ?_⟩
  rw [← herr] at hphase
  exact hphase

/-! ### A whole call -/

theorem modeDirection_modeField (mode : Mode) : modeDirection (modeField mode) = mode := by
  cases mode <;> rfl

theorem modeField_msb (mode : Mode) : (modeField mode).getLsbD 1 = false := by
  cases mode <;> rfl

/-- A load of 16 key bytes and 16 block bytes from empty buffers puts them in `SCHED[0]` and STATE, whatever these held. -/
theorem buffers_of_loads {s t : State} {load : List HostCycle} {key block : Block} (hload : Loads s load t)
    (hk : s.keyCnt = 0) (hd : s.dinCnt = 0) (hkey : writtenTo 0x04 load = key.toList)
    (hblock : writtenTo 0x05 load = block.toList) :
    t.sched[0] = key ∧ t.keyCnt = 16 ∧ t.state = block ∧ t.dinCnt = 16 := by
  have hkeyBuffer : (t.sched[0], t.keyCnt) = (key, 16) := by rw [hload.key, hkey, hk, pushAll_full]
  have hblockBuffer : (t.state, t.dinCnt) = (block, 16) := by rw [hload.block, hblock, hd, pushAll_full]
  obtain ⟨hsched, hkeyCnt⟩ := Prod.mk.inj hkeyBuffer
  obtain ⟨hstate, hdinCnt⟩ := Prod.mk.inj hblockBuffer
  exact ⟨hsched, hkeyCnt, hstate, hdinCnt⟩

/-- Settles O58: the load fills the two buffers, the START accepts them, and the call computes the cipher of them. -/
theorem callResultIsAesOfTheBytesPushed : Obligations.CallResultIsAesOfTheBytesPushed := by
  intro s key block mode load c h hp hk hd hs hloading hkey hblock hr hw hmode hcall
  obtain ⟨u, hrun, hload⟩ := run_load hp hs hloading
  have hhost : u.host = c :: h := by rw [hload.host, hs, List.drop_left]
  obtain ⟨rfl, -⟩ := nextCycle_of_cons hhost
  obtain ⟨hsched, hkeyCnt, hstate, hdinCnt⟩ := buffers_of_loads hload hk hd hkey hblock
  have hcheck : startCheck u (ctrlMode (busWdata (nextCycle u).word)) = .none :=
    (startCheck_none u _).mpr ⟨hkeyCnt, hdinCnt, by rw [hmode, modeField_msb]⟩
  have hstart := step_start_accepted hr (hload.phase.trans hp) hw hcheck
  rw [hmode] at hstart
  have htail : (takeCycle u).host = h := by rw [takeCycle_host, hhost, List.tail_cons]
  obtain ⟨v, hrounds⟩ := run_call (s := drive 0x00 (acceptCall (modeField mode) (takeCycle u))) rfl rfl
    (by rw [drive_host, acceptCall_host, htail]; exact hcall)
  refine ⟨_, (run_add hrun).trans ((run_succ_of_step hstart 51).trans hrounds), ?_, rfl, rfl, rfl,
    modeDirection_modeField mode, congrArg (List.drop 51) htail⟩
  show aes (modeDirection (modeField mode)) u.sched[0] u.state = aes mode key block
  rw [modeDirection_modeField, hsched, hstate]

end Sys2Proof.Machine
end

section
/-! Hidden state (R40): two states that a host cannot tell apart answer the same and stay so. A load and a START look at the
bytes below the counts only, and a RUN step at the call in progress, which an accepted START makes the same in both. -/

namespace Sys2Proof.Machine

/-! ### What a read answers -/

theorem busRead_of_sameView {s₁ s₂ : State} (h : SameView s₁ s₂) (a : BusAddr) : busRead s₁ a = busRead s₂ a := by
  simp only [busRead, statusByte, busy, h.phase, h.done, h.err, h.keyCnt, h.dinCnt, h.dout]

theorem cycleRdata_of_sameView {s₁ s₂ : State} (h : SameView s₁ s₂) (w : BusWord) : cycleRdata s₁ w = cycleRdata s₂ w := by
  rw [cycleRdata_eq, cycleRdata_eq, busRead_of_sameView h]

theorem nextCycle_of_sameView {s₁ s₂ : State} (h : SameView s₁ s₂) : nextCycle s₁ = nextCycle s₂ := by
  rw [nextCycle, nextCycle, h.host]

theorem startCheck_of_sameView {s₁ s₂ : State} (h : SameView s₁ s₂) (mode : BitVec 2) :
    startCheck s₁ mode = startCheck s₂ mode := by
  rw [startCheck, startCheck, h.keyCnt, h.dinCnt]

/-! ### Views that stay the same -/

/-- The view is not about `rdata`. -/
theorem sameView_drive {s₁ s₂ : State} (h : SameView s₁ s₂) (v : Byte) : SameView (drive v s₁) (drive v s₂) :=
  ⟨h.host, h.phase, h.dout, h.done, h.err, h.keyCnt, h.dinCnt, h.loadedKey, h.loadedBlock, h.call⟩

theorem sameView_takeCycle {s₁ s₂ : State} (h : SameView s₁ s₂) : SameView (takeCycle s₁) (takeCycle s₂) :=
  ⟨congrArg List.tail h.host, h.phase, h.dout, h.done, h.err, h.keyCnt, h.dinCnt, h.loadedKey, h.loadedBlock, h.call⟩

/-- A reset edge leaves no difference. -/
theorem sameView_resetEdge {s₁ s₂ : State} (h : s₁.host = s₂.host) (w : BusWord) :
    SameView (resetEdge w s₁) (resetEdge w s₂) where
  host := h
  phase := rfl
  dout := rfl
  done := rfl
  err := rfl
  keyCnt := rfl
  dinCnt := rfl
  loadedKey _ _ _ := rfl
  loadedBlock _ _ _ := rfl
  call _ := ⟨rfl, rfl, rfl, fun _ _ => rfl⟩

/-- The same load in IDLE. -/
theorem sameView_load {s₁ s₂ t₁ t₂ : State} {cycles : List HostCycle} (h : SameView s₁ s₂) (hp : s₁.phase = .idle)
    (h₁ : Loads s₁ cycles t₁) (h₂ : Loads s₂ cycles t₂) : SameView t₁ t₂ := by
  have hidle : t₁.phase = .idle := h₁.phase.trans hp
  have hkey := pushAll_agree (writtenTo 0x04 cycles) (h.loadedKey hp)
  have hblock := pushAll_agree (writtenTo 0x05 cycles) (h.loadedBlock hp)
  have hkey₂ := h₂.key
  have hblock₂ := h₂.block
  rw [← h.keyCnt] at hkey₂
  rw [← h.dinCnt] at hblock₂
  rw [← h₁.key, ← hkey₂] at hkey
  rw [← h₁.block, ← hblock₂] at hblock
  exact {
    host := by rw [h₁.host, h₂.host, h.host]
    phase := by rw [h₁.phase, h₂.phase, h.phase]
    dout := by rw [h₁.dout, h₂.dout, h.dout]
    done := by rw [h₁.done, h₂.done, h.done]
    err := by rw [h₁.err, h₂.err, h.err]
    keyCnt := hkey.1
    dinCnt := hblock.1
    loadedKey := fun _ => hkey.2
    loadedBlock := fun _ => hblock.2
    call := fun hrun => by simp [hidle] at hrun }

/-- The same accepted START: all 16 bytes of both buffers are below the counts (R191). -/
theorem sameView_acceptCall {s₁ s₂ : State} (h : SameView s₁ s₂) (hp : s₁.phase = .idle) (hk : s₁.keyCnt = 16)
    (hd : s₁.dinCnt = 16) (mode : BitVec 2) : SameView (acceptCall mode s₁) (acceptCall mode s₂) where
  host := h.host
  phase := rfl
  dout := h.dout
  done := rfl
  err := rfl
  keyCnt := rfl
  dinCnt := rfl
  loadedKey hidle := by simp at hidle
  loadedBlock hidle := by simp at hidle
  call _ := by
    have hstate : s₁.state = s₂.state := block_ext fun j => h.loadedBlock hp j (by rw [hd]; exact j.isLt)
    have hkey : s₁.sched[0] = s₂.sched[0] := block_ext fun j => h.loadedKey hp j (by rw [hk]; exact j.isLt)
    refine ⟨rfl, rfl, hstate, fun k hle => ?_⟩
    obtain rfl : k = 0 := Fin.ext (Nat.le_zero.mp hle)
    exact hkey

/-- The same rejected START: the counts are 0, so no byte counts (R213). -/
theorem sameView_recordError {s₁ s₂ : State} (h : SameView s₁ s₂) (hp : s₁.phase = .idle) (code : ErrCode) :
    SameView (recordError code s₁) (recordError code s₂) where
  host := h.host
  phase := h.phase
  dout := h.dout
  done := rfl
  err := rfl
  keyCnt := rfl
  dinCnt := rfl
  loadedKey _ j hj := absurd hj (Nat.not_lt_zero j.val)
  loadedBlock _ j hj := absurd hj (Nat.not_lt_zero j.val)
  call hrun := by simp [hp] at hrun

theorem sameView_start {s₁ s₂ : State} (h : SameView s₁ s₂) (hp : s₁.phase = .idle) (mode : BitVec 2) :
    SameView (start mode s₁) (start mode s₂) := by
  have hcheck := startCheck_of_sameView h mode
  rcases start_cases mode s₁ with ⟨hnone, hstart⟩ | ⟨hcode, hstart⟩
  · obtain ⟨hk, hd, -⟩ := (startCheck_none s₁ mode).mp hnone
    rw [hstart, start_of_startCheck_none (hcheck ▸ hnone)]
    exact sameView_acceptCall h hp hk hd mode
  · rw [hstart, start_of_startCheck_ne_none (hcheck ▸ hcode), hcheck]
    exact sameView_recordError h hp _

/-! ### RUN -/

/-- In RUN the view fixes all that a micro-op before OUT writes (R140). -/
theorem sameView_of_call {s₁ s₂ : State} (h : SameView s₁ s₂) (hp : s₁.phase = .run) {b : Block} {k₁ k₂ : Schedule}
    (hsched : ∀ k : Fin 11, k.val ≤ (s₁.upc + 1).toNat → k₁[k] = k₂[k]) :
    SameView (advance { s₁ with state := b, sched := k₁ }) (advance { s₂ with state := b, sched := k₂ }) where
  host := h.host
  phase := h.phase
  dout := h.dout
  done := h.done
  err := h.err
  keyCnt := h.keyCnt
  dinCnt := h.dinCnt
  loadedKey hidle := by simp [hp] at hidle
  loadedBlock hidle := by simp [hp] at hidle
  call _ := by
    obtain ⟨hmode, hupc, -⟩ := h.call hp
    exact ⟨hmode, congrArg (· + 1) hupc, rfl, hsched⟩

/-- At UPC 10 and above the view fixes the whole schedule. -/
theorem sched_of_sameView {s₁ s₂ : State} (h : SameView s₁ s₂) (hp : s₁.phase = .run) (hge : 10 ≤ s₁.upc.toNat) :
    s₁.sched = s₂.sched := by
  obtain ⟨-, -, -, hsched⟩ := h.call hp
  exact Vector.ext fun k hk => hsched ⟨k, hk⟩ (by omega)

/-- OUT shows the block, which the view fixes, and leaves in the buffers what the view fixes (R164). -/
theorem sameView_out {s₁ s₂ : State} (h : SameView s₁ s₂) (hp : s₁.phase = .run) :
    SameView { s₁ with dout := s₁.state, done := true, phase := .idle }
      { s₂ with dout := s₂.state, done := true, phase := .idle } := by
  obtain ⟨-, -, hstate, hsched⟩ := h.call hp
  have hkey : s₁.sched[0] = s₂.sched[0] := hsched 0 (Nat.zero_le _)
  exact {
    host := h.host
    phase := rfl
    dout := hstate
    done := rfl
    err := h.err
    keyCnt := h.keyCnt
    dinCnt := h.dinCnt
    loadedKey := fun _ j _ => congrArg (fun b : Block => b[j]) hkey
    loadedBlock := fun _ j _ => congrArg (fun b : Block => b[j]) hstate
    call := fun hrun => by cases hrun }

/-- KEYEXP reads a round key that the view fixes and writes the next one. -/
theorem sched_after_keyexp {s₁ s₂ : State} {j : Fin 10} (hj : s₁.upc.toNat = j.val)
    (h : ∀ k : Fin 11, k.val ≤ s₁.upc.toNat → s₁.sched[k] = s₂.sched[k]) (k : Fin 11)
    (hk : k.val ≤ (s₁.upc + 1).toNat) :
    (s₁.sched.set (j.val + 1) (expandRound s₁.sched[j.val] (j.val + 1)))[k] =
      (s₂.sched.set (j.val + 1) (expandRound s₂.sched[j.val] (j.val + 1)))[k] := by
  have hsource : s₁.sched[j.val] = s₂.sched[j.val] := h j.castSucc (by simp [hj])
  rw [hsource]
  simp only [Fin.getElem_fin, Vector.getElem_set]
  split
  next => rfl
  next hne => exact h k (by bv_omega)

/-- The RUN step keeps the view and `rdata`, up to UPC 50. -/
theorem runStep_sameView {s₁ s₂ : State} (h : SameView s₁ s₂) (hp : s₁.phase = .run) (hle : s₁.upc.toNat ≤ 50) :
    ∃ t₁ t₂, runStep s₁ = .next t₁ ∧ runStep s₂ = .next t₂ ∧ SameView t₁ t₂ ∧ t₁.rdata = s₁.rdata ∧
      t₂.rdata = s₂.rdata := by
  obtain ⟨hmode, hupc, hstate, hsched⟩ := h.call hp
  obtain ⟨w, i, hw₁, hi⟩ := progWord_decodes s₁.modeR hle
  have hw₂ : progWord s₂.modeR s₂.upc = some w := by rw [← hmode, ← hupc, hw₁]
  rw [runStep_of_fetch hw₁ hi, runStep_of_fetch hw₂ hi]
  rcases progWord_effect hw₁ hi with ⟨j, hj, rfl⟩ | ⟨hge, -, he⟩ | ⟨-, rfl⟩
  · refine ⟨_, _, exec_keyexp_legal j s₁, exec_keyexp_legal j s₂, ?_, rfl, rfl⟩
    rw [← hstate]
    exact sameView_of_call h hp (sched_after_keyexp hj hsched)
  · refine ⟨_, _, he s₁, he s₂, ?_, rfl, rfl⟩
    rw [← hstate, ← sched_of_sameView h hp hge]
    exact sameView_of_call h hp fun _ _ => rfl
  · exact ⟨_, _, rfl, rfl, sameView_out h hp, rfl, rfl⟩

/-! ### The step -/

/-- Settles O59: by reset, PHASE and whether the cycle carries a START; only a UPC above 50 faults, in both states alike. -/
theorem hiddenStateNeverReachesTheHost : Obligations.HiddenStateNeverReachesTheHost := by
  intro s₁ s₂ h
  have hnext := nextCycle_of_sameView h
  have hrdata := cycleRdata_of_sameView h (nextCycle s₁).word
  have htaken := sameView_takeCycle h
  cases hr : (nextCycle s₁).rst with
  | true =>
    have hstep₂ := step_of_reset (s := s₂) (hnext ▸ hr)
    rw [← hnext] at hstep₂
    exact .inl ⟨_, _, step_of_reset hr, hstep₂, sameView_resetEdge htaken.host _, hrdata⟩
  | false =>
    have hr₂ : (nextCycle s₂).rst = false := hnext ▸ hr
    cases hp : s₁.phase with
    | idle =>
      have hp₂ : s₂.phase = .idle := h.phase ▸ hp
      cases hw : isStart (nextCycle s₁).word with
      | false =>
        obtain ⟨t₁, hstep₁, hrdata₁, hload₁⟩ := step_load hr hp hw
        obtain ⟨t₂, hstep₂, hrdata₂, hload₂⟩ := step_load hr₂ hp₂ (hnext ▸ hw)
        rw [← hnext] at hrdata₂ hload₂
        exact .inl ⟨t₁, t₂, hstep₁, hstep₂, sameView_load h hp hload₁ hload₂,
          hrdata₁.trans (hrdata.trans hrdata₂.symm)⟩
      | true =>
        have hstep₂ := step_start hr₂ hp₂ (hnext ▸ hw)
        rw [← hnext] at hstep₂
        exact .inl ⟨_, _, step_start hr hp hw, hstep₂, sameView_drive (sameView_start htaken hp _) 0x00, rfl⟩
    | run =>
      have hp₂ : s₂.phase = .run := h.phase ▸ hp
      obtain ⟨-, hupc, -⟩ := h.call hp
      rw [step_of_run hr hp, step_of_run hr₂ hp₂, ← hnext, ← hrdata]
      by_cases hle : s₁.upc.toNat ≤ 50
      · obtain ⟨t₁, t₂, ht₁, ht₂, hview, hrdata₁, hrdata₂⟩ := runStep_sameView (sameView_drive htaken _) hp hle
        exact .inl ⟨t₁, t₂, ht₁, ht₂, hview, hrdata₁.trans hrdata₂.symm⟩
      · have hfault₁ := runStep_above_program
          (s := drive (cycleRdata s₁ (nextCycle s₁).word) (takeCycle s₁)) (Nat.lt_of_not_le hle)
        have hfault₂ := runStep_above_program
          (s := drive (cycleRdata s₁ (nextCycle s₁).word) (takeCycle s₂)) (hupc ▸ Nat.lt_of_not_le hle)
        refine .inr ⟨_, hfault₁, hfault₂.trans ?_⟩
        rw [drive_upc, drive_upc, takeCycle_upc, takeCycle_upc, hupc]

end Sys2Proof.Machine
end
